-- ==== Sys2Proof/Word.lean ====
section
/-! DEFINITION. The bit widths of SHA256C (00_scope rules R7 and R8). Every value is unsigned (R10); `+` on `BitVec` is
addition modulo 2^width, which is the integer law of 40_mixing_functions rule R110. -/

namespace Sys2Proof

/-- A 32-bit word (R7). -/
abbrev Word := BitVec 32

/-- A byte of a block (R13). -/
abbrev Byte := BitVec 8

/-- The 64-bit byte count LEN (R8). -/
abbrev Count := BitVec 64

/-- A 7-bit word address of the register port (20_memory rule R50). -/
abbrev PortAddr := BitVec 7

/-- The 6-bit ARG field of a command word (30_encoding rule R80). -/
abbrev Arg := BitVec 6

end Sys2Proof
end

