-- ==== Sys2Proof/Syntax.lean ====
section
/-! DEFINITION. The commands of SHA256C, one constructor per row of spec/opcode_table.json (30_encoding rule R82). The
argument, where a command takes one, is the whole 6-bit ARG field (R80, R81). -/

namespace Sys2Proof

/-- A command. Its register operands are fixed by the command (10_state rule R21), so only ARG is an operand here. -/
inductive Instr where
  /-- Start a message (42_compression rule R145). -/
  | init
  /-- The bare compression of BUF (rule R146). -/
  | compress
  /-- Compress BUF as one full block of the message (rule R147). -/
  | block
  /-- Pad and compress the `r` tail bytes in BUF (43_padding_framing rule R167). -/
  | final (r : Arg)
  /-- Rotate OPX right by `n` (40_mixing_functions rule R112). -/
  | rotr (n : Arg)
  /-- Shift OPX right by `n` (rule R113). -/
  | shr (n : Arg)
  /-- Choose (rule R114). -/
  | ch
  /-- Majority (rule R115). -/
  | maj
  /-- Σ0 of OPX (rule R116). -/
  | bsig0
  /-- Σ1 of OPX (rule R117). -/
  | bsig1
  /-- σ0 of OPX (rule R118). -/
  | ssig0
  /-- σ1 of OPX (rule R119). -/
  | ssig1
  /-- Word `i` of the message schedule of BUF (41_message_schedule rule R134). -/
  | schedw (i : Arg)
  deriving DecidableEq, Repr

end Sys2Proof
end

