-- ==== Sys2Proof/WellFormed.lean ====
section
/-! DEFINITION. Which commands are well formed: those that some command word encodes (30_encoding rule R81). -/

namespace Sys2Proof

/-- ROTR and SHR take n in 0..31, "so ARG[5] must be 0"; FINAL and SCHEDW take every 6-bit value (R81). -/
def Instr.wf : Instr → Bool
  | .init => true
  | .compress => true
  | .block => true
  | .final _ => true
  | .rotr n => n.toNat < 32
  | .shr n => n.toNat < 32
  | .ch => true
  | .maj => true
  | .bsig0 => true
  | .bsig1 => true
  | .ssig0 => true
  | .ssig1 => true
  | .schedw _ => true

end Sys2Proof
end

