-- ==== Sys2Proof/Decode.lean ====
section
/-! DEFINITION. Decoding a word written to CMD (30_encoding rules R80 to R84) and, after it, the encoder. -/

namespace Sys2Proof

/-- Why a command word selects no row. Every reason is the same error, ILLEGAL_CMD (60_exceptions rules R183, R186). -/
inductive DecodeReject where
  /-- OPCODE is 0x00, 0x05..0x0F or 0x19..0xFF (R84). -/
  | reservedOpcode
  /-- RSV, bits 31:14, is not 0. -/
  | reservedBits
  /-- ARG is not 0 for a command that takes none. -/
  | argNotZero
  /-- ARG[5] is 1 for ROTR or SHR. -/
  | argTooLarge
  deriving DecidableEq, Repr

/-- OPCODE, bits 7:0 of a command word (R80). -/
def opcodeField (w : Word) : BitVec 8 := w.extractLsb' 0 8

/-- ARG, bits 13:8 of a command word (R80, R81). -/
def argField (w : Word) : Arg := w.extractLsb' 8 6

/-- RSV, bits 31:14 of a command word (R80). -/
def rsvField (w : Word) : BitVec 18 := w.extractLsb' 14 18

/-- A row of the opcode map: a word selects it when its masked bits equal `pattern` (R82). -/
structure OpcodeRow where
  pattern : Word
  mask : Word
  /-- The row's command with its ARG. -/
  build : Arg → Instr

/-- A word selects a row when (w and mask) == match (R82). -/
def OpcodeRow.selects (row : OpcodeRow) (w : Word) : Bool := w &&& row.mask == row.pattern

/-- The opcode map, its rows in the order of R82. -/
def opcodeMap : List OpcodeRow :=
  [⟨0x00000001, 0xFFFFFFFF, fun _ => .init⟩,
   ⟨0x00000002, 0xFFFFFFFF, fun _ => .compress⟩,
   ⟨0x00000003, 0xFFFFFFFF, fun _ => .block⟩,
   ⟨0x00000004, 0xFFFFC0FF, .final⟩,
   ⟨0x00000010, 0xFFFFE0FF, .rotr⟩,
   ⟨0x00000011, 0xFFFFE0FF, .shr⟩,
   ⟨0x00000012, 0xFFFFFFFF, fun _ => .ch⟩] ++
  [⟨0x00000013, 0xFFFFFFFF, fun _ => .maj⟩,
   ⟨0x00000014, 0xFFFFFFFF, fun _ => .bsig0⟩,
   ⟨0x00000015, 0xFFFFFFFF, fun _ => .bsig1⟩,
   ⟨0x00000016, 0xFFFFFFFF, fun _ => .ssig0⟩,
   ⟨0x00000017, 0xFFFFFFFF, fun _ => .ssig1⟩,
   ⟨0x00000018, 0xFFFFC0FF, .schedw⟩]

/-- The opcodes that R82 gives to some command; the others are reserved (R84). -/
def opcodeAssigned (op : BitVec 8) : Bool :=
  (1 ≤ op.toNat && op.toNat ≤ 4) || (0x10 ≤ op.toNat && op.toNat ≤ 0x18)

/-- ROTR and SHR, whose ARG has 5 bits (R81). -/
def opcodeIsShift (op : BitVec 8) : Bool := op == 0x10 || op == 0x11

/-- The name of what is wrong with a word that selects no row. -/
def rejectReason (w : Word) : DecodeReject :=
  if !opcodeAssigned (opcodeField w) then .reservedOpcode
  else if rsvField w ≠ 0 then .reservedBits
  else if opcodeIsShift (opcodeField w) then .argTooLarge
  else .argNotZero

/-- Decoding a word written to CMD (R83). Total: a word selects a row or is rejected by name. -/
def decode (w : Word) : Except DecodeReject Instr :=
  match opcodeMap.find? (fun row => row.selects w) with
  | some row => .ok (row.build (argField w))
  | none => .error (rejectReason w)

/-- The OPCODE of a command (R82). -/
def opcode : Instr → BitVec 8
  | .init => 0x01
  | .compress => 0x02
  | .block => 0x03
  | .final _ => 0x04
  | .rotr _ => 0x10
  | .shr _ => 0x11
  | .ch => 0x12
  | .maj => 0x13
  | .bsig0 => 0x14
  | .bsig1 => 0x15
  | .ssig0 => 0x16
  | .ssig1 => 0x17
  | .schedw _ => 0x18

/-- The ARG field of a command: 0 for a command that takes none (R80). -/
def argOf : Instr → Arg
  | .final r => r
  | .rotr n => n
  | .shr n => n
  | .schedw i => i
  | .init => 0
  | .compress => 0
  | .block => 0
  | .ch => 0
  | .maj => 0
  | .bsig0 => 0
  | .bsig1 => 0
  | .ssig0 => 0
  | .ssig1 => 0

/-- The command word of a command: RSV = 0, then ARG, then OPCODE (R80). -/
def encode (i : Instr) : Word := (0 : BitVec 18) ++ argOf i ++ opcode i

/-- A word of the opcode table: its `nbits` low bits are `w`, the bits above them 0. A command is one 32-bit port word
(R85), so there is no layout in bytes; more bits than 32 are no command word. -/
def decodeTableWord (nbits w : Nat) : Option Instr :=
  if w % 2 ^ nbits < 2 ^ 32 then (decode (BitVec.ofNat 32 (w % 2 ^ nbits))).toOption else none

end Sys2Proof
end

