-- ==== Sys2Proof/Config.lean ====
section
/-! DEFINITION. The fixed sizes of SHA256C (00_scope rule R7). The three parameters the spec leaves open (CMD_LATENCY,
ROUNDS_PER_CYCLE, PORT_BASE, rule R8) change no host-visible value, and 93_implementation_defined says a transaction-level
model takes none of them. There is no free value: the spec gives every host-visible value. -/

namespace Sys2Proof.Config

/-- Bytes in a block: "exactly 64 bytes (512 bits)" (R7). -/
abbrev blockBytes : Nat := 64

/-- Words in a block. -/
abbrev blockWords : Nat := 16

/-- Rounds of one compression, and words of the message schedule (R7). -/
abbrev rounds : Nat := 64

/-- The block byte where the 8-byte length field begins (43_padding_framing rule R163). -/
abbrev lengthAt : Nat := 56

end Sys2Proof.Config
end

