-- ==== Sys2Proof/Machine/Rom.lean ====
section
/-! DEFINITION. The constants of SHA256C: the ID word, the initial hash value and the round constants. -/

namespace Sys2Proof.Machine

/-- What ID reads: "S256" (10_state rule R23). -/
def Rom.idWord : Word := 0x53323536

/-- The IV ROM (40_mixing_functions rule R109). -/
def Rom.iv : Vector Word 8 :=
  #v[0x6a09e667, 0xbb67ae85, 0x3c6ef372, 0xa54ff53a, 0x510e527f, 0x9b05688c, 0x1f83d9ab, 0x5be0cd19]

/-- The table of R100 as the spec prints it: row i holds K[i], K[i + 16], K[i + 32] and K[i + 48]. -/
def Rom.kRows : List (Word × Word × Word × Word) :=
  [(0x428a2f98, 0xe49b69c1, 0x27b70a85, 0x19a4c116),
   (0x71374491, 0xefbe4786, 0x2e1b2138, 0x1e376c08),
   (0xb5c0fbcf, 0x0fc19dc6, 0x4d2c6dfc, 0x2748774c),
   (0xe9b5dba5, 0x240ca1cc, 0x53380d13, 0x34b0bcb5),
   (0x3956c25b, 0x2de92c6f, 0x650a7354, 0x391c0cb3),
   (0x59f111f1, 0x4a7484aa, 0x766a0abb, 0x4ed8aa4a),
   (0x923f82a4, 0x5cb0a9dc, 0x81c2c92e, 0x5b9cca4f),
   (0xab1c5ed5, 0x76f988da, 0x92722c85, 0x682e6ff3)] ++
  [(0xd807aa98, 0x983e5152, 0xa2bfe8a1, 0x748f82ee),
   (0x12835b01, 0xa831c66d, 0xa81a664b, 0x78a5636f),
   (0x243185be, 0xb00327c8, 0xc24b8b70, 0x84c87814),
   (0x550c7dc3, 0xbf597fc7, 0xc76c51a3, 0x8cc70208),
   (0x72be5d74, 0xc6e00bf3, 0xd192e819, 0x90befffa),
   (0x80deb1fe, 0xd5a79147, 0xd6990624, 0xa4506ceb),
   (0x9bdc06a7, 0x06ca6351, 0xf40e3585, 0xbef9a3f7),
   (0xc19bf174, 0x14292967, 0x106aa070, 0xc67178f2)]

/-- The round-constant ROM K[0..63] (40_mixing_functions rule R100): the table's columns, one after the other. -/
def Rom.kTable : List Word :=
  Rom.kRows.map (fun r => r.1) ++ Rom.kRows.map (fun r => r.2.1) ++ Rom.kRows.map (fun r => r.2.2.1) ++
    Rom.kRows.map (fun r => r.2.2.2)

/-- K[t], for t in 0..63. -/
def Rom.k (t : Nat) : Word := Rom.kTable.getD t 0

end Sys2Proof.Machine
end

