-- ==== Sys2Proof/Machine/Functions.lean ====
section
/-! DEFINITION. The mixing functions (40_mixing_functions rules R101 to R108). They have no state. -/

namespace Sys2Proof.Machine

/-- Rotate right, for n in 0..31 (R101). -/
def rotr (x : Word) (n : Nat) : Word := if n = 0 then x else (x >>> n) ||| (x <<< (32 - n))

/-- Logical shift right, for n in 0..31 (R102). -/
def shr (x : Word) (n : Nat) : Word := x >>> n

/-- Choose: (x ∧ y) ⊕ (¬x ∧ z) (R103). -/
def choose (x y z : Word) : Word := (x &&& y) ^^^ (~~~x &&& z)

/-- Majority: (x ∧ y) ⊕ (x ∧ z) ⊕ (y ∧ z) (R104). -/
def majority (x y z : Word) : Word := (x &&& y) ^^^ (x &&& z) ^^^ (y &&& z)

/-- Σ0, the round's a-function (R105). -/
def bigSigma0 (x : Word) : Word := rotr x 2 ^^^ rotr x 13 ^^^ rotr x 22

/-- Σ1, the round's e-function (R106). -/
def bigSigma1 (x : Word) : Word := rotr x 6 ^^^ rotr x 11 ^^^ rotr x 25

/-- σ0, the schedule's W[i-15] function (R107). -/
def smallSigma0 (x : Word) : Word := rotr x 7 ^^^ rotr x 18 ^^^ shr x 3

/-- σ1, the schedule's W[i-2] function (R108). -/
def smallSigma1 (x : Word) : Word := rotr x 17 ^^^ rotr x 19 ^^^ shr x 10

end Sys2Proof.Machine
end

