-- ==== Sys2Proof/Machine/Schedule.lean ====
section
/-! DEFINITION. The message schedule (41_message_schedule rules R130 to R133). -/

namespace Sys2Proof.Machine

/-- W[i] from the words W[0..i-1], for i >= 16 (R131). -/
def nextWord (w : List Word) : Word :=
  let i := w.length
  smallSigma1 (w.getD (i - 2) 0) + w.getD (i - 7) 0 + smallSigma0 (w.getD (i - 15) 0) + w.getD (i - 16) 0

/-- `n` more schedule words. -/
def extendSchedule : Nat → List Word → List Word
  | 0, w => w
  | n + 1, w => extendSchedule n (w ++ [nextWord w])

/-- schedule(B): W[0..15] are the block's words, W[16..63] follow (R130, R131, R133). -/
def schedule (b : Vector Word 16) : List Word := extendSchedule (Config.rounds - Config.blockWords) b.toList

end Sys2Proof.Machine
end

