-- ==== Sys2Proof/Machine/Compress.lean ====
section
/-! DEFINITION. The compression function (42_compression rules R140 to R143). -/

namespace Sys2Proof.Machine

/-- The working registers a..h (10_state rule R35). -/
structure Working where
  a : Word
  b : Word
  c : Word
  d : Word
  e : Word
  f : Word
  g : Word
  h : Word
  deriving DecidableEq, Repr

/-- Working-register load (R140). -/
def loadWorking (x : Vector Word 8) : Working := ⟨x[0], x[1], x[2], x[3], x[4], x[5], x[6], x[7]⟩

/-- One round with K[t] and W[t]; the eight assignments are simultaneous (R141). -/
def compressRound (k w : Word) (r : Working) : Working :=
  let t1 := r.h + bigSigma1 r.e + choose r.e r.f r.g + k + w
  let t2 := bigSigma0 r.a + majority r.a r.b r.c
  { a := t1 + t2, b := r.a, c := r.b, d := r.c, e := r.d + t1, f := r.e, g := r.f, h := r.g }

/-- Rounds 0, 1, ..., 63 in that order (R141). -/
def runRounds (w : List Word) (r : Working) : Working :=
  (Rom.kTable.zip w).foldl (fun r kw => compressRound kw.1 kw.2 r) r

/-- Final accumulation (R142). -/
def accumulate (x : Vector Word 8) (r : Working) : Vector Word 8 :=
  #v[x[0] + r.a, x[1] + r.b, x[2] + r.c, x[3] + r.d, x[4] + r.e, x[5] + r.f, x[6] + r.g, x[7] + r.h]

/-- compress(H, B), a pure function of the hash state and the sixteen canonical words of the block (R143). -/
def compress (x : Vector Word 8) (b : Vector Word 16) : Vector Word 8 :=
  accumulate x (runRounds (schedule b) (loadWorking x))

end Sys2Proof.Machine
end

