-- ==== Sys2Proof/Machine/State.lean ====
section
/-! DEFINITION. The state of SHA256C (10_state), the events of its port (70_reset_and_hazards rule R199), the errors it
records, and its state after reset. -/

namespace Sys2Proof.Machine

/-- A port transaction of the host: one full 32-bit word at one word address (20_memory rule R51). -/
inductive Transaction where
  /-- PortRead(a). -/
  | read (a : PortAddr)
  /-- PortWrite(a, v). -/
  | write (a : PortAddr) (v : Word)
  deriving DecidableEq, Repr

/-- What can happen at the interface. -/
inductive PortEvent where
  /-- A transaction, from its request to its completion. -/
  | transact (t : Transaction)
  /-- `rst = 1` at a rising edge of `clk`. `inProgress` is the transaction it abandons, if one is in progress
  (70_reset_and_hazards rules R200, R201). -/
  | reset (inProgress : Option Transaction)
  deriving DecidableEq, Repr

/-- The errors that STATUS can record (60_exceptions rule R181). -/
inductive ErrorKind where
  /-- A word written to CMD matches no row of the opcode map. -/
  | illegalCmd
  /-- A write to a read-only or reserved address. -/
  | badAccess
  deriving DecidableEq, Repr

/-- The reasons for which the machine stops with a fault. There are none: SHA256C "raises no trap" and an error is
recorded in STATUS (60_exceptions rule R180). -/
inductive Fault where
  deriving DecidableEq, Repr

/-- The reasons for which the model gives an instruction no meaning. -/
inductive Refusal where
  /-- Raised by no arm of `exec` now: it would name a command that has no meaning yet. Safe: nothing is claimed of it. -/
  | notModelled (mnemonic : String)
  deriving DecidableEq, Repr

/-- The state of SHA256C between transactions, where its sequencer is IDLE (10_state rule R22). ID, K and IV are
constants (`Rom`); CMD holds no value (R24); the working registers, the schedule store and the scratch block exist only
within a command (R38). -/
structure State where
  /-- STATUS.DONE (R25, R39). -/
  done : Bool
  /-- STATUS.ERR (R25, R40). -/
  err : Bool
  /-- STATUS.ERRCODE (R25, R40). -/
  errcode : BitVec 4
  /-- CFG.BSWAP (R27). -/
  bswap : Bool
  /-- LEN, the message bytes framed so far (R28). -/
  len : Count
  /-- H0..H7, the hash state (R29). -/
  h : Vector Word 8
  /-- BUF0..BUF15, one block in canonical big-endian words (R30). -/
  buf : Vector Word 16
  /-- OPX (R31). -/
  opx : Word
  /-- OPY (R31). -/
  opy : Word
  /-- OPZ (R31). -/
  opz : Word
  /-- RES (R32). -/
  res : Word
  /-- The model's own: what the host asks for next, oldest first (20_memory rule R66). -/
  pending : List PortEvent
  /-- The model's own: the value the last completed PortRead returned (70_reset_and_hazards rule R199). -/
  rdata : Word
  deriving DecidableEq, Repr

/-- The state after reset (10_state rule R41). `pending` and `rdata` are no registers of SHA256C: DESIGN CHOICE, log
entries 1 and 2. -/
def State.reset : State where
  done := false
  err := false
  errcode := 0
  bswap := false
  len := 0
  h := Rom.iv
  buf := #v[0, 0, 0, 0, 0, 0, 0, 0, 0, 0, 0, 0, 0, 0, 0, 0]
  opx := 0
  opy := 0
  opz := 0
  res := 0
  pending := []
  rdata := 0

end Sys2Proof.Machine
end

