-- ==== Sys2Proof/Machine/Flags.lean ====
section
/-! DEFINITION. The flags of STATUS (10_state rules R25, R39, R40). No flag is computed from a result: SHA256C has no
carry or overflow flag (40_mixing_functions rule R110). -/

namespace Sys2Proof.Machine

/-- DONE <- b (R39). -/
def setDone (b : Bool) (s : State) : State := { s with done := b }

/-- What STATUS reads: {24'b0, ERRCODE, 2'b0, ERR, DONE} (20_memory rule R52). -/
def statusWord (s : State) : Word :=
  (0 : BitVec 24) ++ s.errcode ++ (0 : BitVec 2) ++ BitVec.ofBool s.err ++ BitVec.ofBool s.done

/-- Bit 1 of a word written to STATUS: write 1 to clear ERR (R26). -/
def clearsError (v : Word) : Bool := v.getLsbD 1

end Sys2Proof.Machine
end

