-- ==== Sys2Proof/Machine/Ops.lean ====
section
/-! DEFINITION. The named operations over the registers, the byte order of words, and recording an error with its clear. -/

namespace Sys2Proof.Machine

/-- bswap32(v) = {v[7:0], v[15:8], v[23:16], v[31:24]} (00_scope rule R12). -/
def bswap32 (v : Word) : Word :=
  v.extractLsb' 0 8 ++ v.extractLsb' 8 8 ++ v.extractLsb' 16 8 ++ v.extractLsb' 24 8

/-- The port data of the H and BUF windows: swapped when CFG.BSWAP = 1, on write and on read (20_memory rules R58, R59). -/
def windowData (s : State) (v : Word) : Word := if s.bswap then bswap32 v else v

/-- The big-endian word of four bytes, the first in bits 31:24 (00_scope rule R13). -/
def bigEndian32 (b0 b1 b2 b3 : Byte) : Word := b0 ++ b1 ++ b2 ++ b3

/-- Byte m of a word, the most significant first (00_scope rule R13). -/
def byteOfWord (w : Word) (m : Nat) : Byte := w.extractLsb' (24 - 8 * m) 8

/-- Byte m of a 64-bit number, the most significant first (43_padding_framing rule R163). -/
def byteOfCount (c : Count) (m : Nat) : Byte := c.extractLsb' (56 - 8 * m) 8

/-- The codes of STATUS.ERRCODE (60_exceptions rule R181). -/
def errorCode : ErrorKind → BitVec 4
  | .illegalCmd => 1
  | .badAccess => 2

/-- raise E: the error is recorded unless one stands already (60_exceptions rule R182). It is the only entry an error has:
nothing is saved and no control is transferred (R180, R187). -/
def raiseError (e : ErrorKind) (s : State) : State :=
  if s.err then s else { s with err := true, errcode := errorCode e }

/-- The host's clear of the error, the only "return" (60_exceptions rule R188, 10_state rule R26). -/
def clearError (s : State) : State := { s with err := false, errcode := 0 }

/-- BSWAP <- b (10_state rule R27). -/
def setBswap (b : Bool) (s : State) : State := { s with bswap := b }

/-- LEN <- c (10_state rule R28). -/
def setLen (c : Count) (s : State) : State := { s with len := c }

/-- LEN[31:0] <- v, the other half kept (10_state rule R28). -/
def setLenLo (v : Word) (s : State) : State := setLen (s.len.extractLsb' 32 32 ++ v) s

/-- LEN[63:32] <- v, the other half kept (10_state rule R28). -/
def setLenHi (v : Word) (s : State) : State := setLen (v ++ s.len.extractLsb' 0 32) s

/-- H[0..7] <- x (42_compression rule R142). -/
def setHash (x : Vector Word 8) (s : State) : State := { s with h := x }

/-- Hi <- v (20_memory rule R54). -/
def setH (i : Fin 8) (v : Word) (s : State) : State := setHash (s.h.set i v) s

/-- BUFj <- v (20_memory rule R54). -/
def setBuf (j : Fin 16) (v : Word) (s : State) : State := { s with buf := s.buf.set j v }

/-- OPX <- v (10_state rule R31). -/
def setOpx (v : Word) (s : State) : State := { s with opx := v }

/-- OPY <- v (10_state rule R31). -/
def setOpy (v : Word) (s : State) : State := { s with opy := v }

/-- OPZ <- v (10_state rule R31). -/
def setOpz (v : Word) (s : State) : State := { s with opz := v }

/-- RES <- v (10_state rule R32). -/
def setRes (v : Word) (s : State) : State := { s with res := v }

/-- A completed read answers v to the host (70_reset_and_hazards rule R199). -/
def setRdata (v : Word) (s : State) : State := { s with rdata := v }

/-- `rst = 1`: every state element takes its reset value (70_reset_and_hazards rule R200). What the host asks for next is
the host's, and what it last read stays read (log entry 3). -/
def resetMachine (s : State) : State := { State.reset with pending := s.pending, rdata := s.rdata }

end Sys2Proof.Machine
end

