-- ==== Sys2Proof/Machine/Operands.lean ====
section
/-! DEFINITION. The operand forms of the commands (30_encoding rule R81): the ARG field as a number, and the tail bytes
that FINAL takes from BUF. All other operands are whole registers named by the command. -/

namespace Sys2Proof.Machine

/-- The shift amount of ROTR and SHR, 0..31; none when ARG[5] = 1, which is ILLEGAL_CMD (R81, 40_mixing_functions rules
R112, R113). -/
def shiftAmount (n : Arg) : Option Nat := if n.toNat < 32 then some n.toNat else none

/-- FINAL's tail length R, 0..63 (R81). -/
def tailLength (r : Arg) : Nat := r.toNat

/-- SCHEDW's schedule index i, 0..63 (R81). -/
def scheduleIndex (i : Arg) : Nat := i.toNat

/-- Byte k of BUF, T[k] = BUF[k div 4][31 - 8(k mod 4) : 24 - 8(k mod 4)] (43_padding_framing rule R161). -/
def tailByte (buf : Vector Word 16) (k : Nat) : Byte := byteOfWord (buf.toList.getD (k / 4) 0) (k % 4)

end Sys2Proof.Machine
end

