-- ==== Sys2Proof/Machine/Padding.lean ====
section
/-! DEFINITION. The scratch blocks that FINAL builds (43_padding_framing rules R161 to R166). -/

namespace Sys2Proof.Machine

/-- words(blk): word j is the big-endian word of bytes 4j..4j+3 (00_scope rule R13). -/
def wordAt (blk : List Byte) (j : Nat) : Word :=
  bigEndian32 (blk.getD (4 * j) 0) (blk.getD (4 * j + 1) 0) (blk.getD (4 * j + 2) 0) (blk.getD (4 * j + 3) 0)

/-- The sixteen words of a block of bytes. -/
def words (blk : List Byte) : Vector Word 16 :=
  #v[wordAt blk 0, wordAt blk 1, wordAt blk 2, wordAt blk 3, wordAt blk 4, wordAt blk 5, wordAt blk 6, wordAt blk 7,
     wordAt blk 8, wordAt blk 9, wordAt blk 10, wordAt blk 11, wordAt blk 12, wordAt blk 13, wordAt blk 14, wordAt blk 15]

/-- BL = 8·L modulo 2^64 (R163). -/
def bitLength (l : Count) : Count := 8 * l

/-- SCR[0..n-1] of R162: the r tail bytes, 0x80, then zeros. -/
def scratch (n : Nat) (buf : Vector Word 16) (r : Nat) : List Byte :=
  (List.range n).map (fun k => if k < r then tailByte buf k else if k = r then 0x80 else 0)

/-- The eight bytes of the length field, most significant first (R163). -/
def lengthField (l : Count) : List Byte := (List.range 8).map (byteOfCount (bitLength l))

/-- There is room for 0x80 and the length field in the first scratch block (R164). -/
def oneBlock (r : Nat) : Bool := r < Config.lengthAt

/-- The first scratch block: with the length field when there is room for it (R164), without it when not (R165). -/
def firstBlock (buf : Vector Word 16) (r : Nat) (l : Count) : List Byte :=
  if oneBlock r then scratch Config.lengthAt buf r ++ lengthField l else scratch Config.blockBytes buf r

/-- The second scratch block, when it is needed: 56 zero bytes, then the length field (R165). -/
def secondBlock (l : Count) : List Byte := List.replicate Config.lengthAt 0 ++ lengthField l

end Sys2Proof.Machine
end

