-- ==== Sys2Proof/Machine/Hashing.lean ====
section
/-! DEFINITION. The meanings of INIT, COMPRESS, BLOCK (42_compression) and FINAL (43_padding_framing). -/

namespace Sys2Proof.Machine

/-- INIT: H <- IV; LEN <- 0; DONE <- 0 (R145). -/
def execInit (s : State) : Host.Outcome State Fault Refusal :=
  .next (setDone false (setLen 0 (setHash Rom.iv s)))

/-- COMPRESS: H <- compress(H, BUF); DONE <- 0 (R146). -/
def execCompress (s : State) : Host.Outcome State Fault Refusal :=
  .next (setDone false (setHash (compress s.h s.buf) s))

/-- BLOCK: H <- compress(H, BUF); LEN <- LEN + 64; DONE <- 0 (R147). -/
def execBlock (s : State) : Host.Outcome State Fault Refusal :=
  .next (setDone false (setLen (s.len + 64) (setHash (compress s.h s.buf) s)))

/-- L = LEN + R, the length of the whole message in bytes (R163). -/
def messageLength (s : State) (r : Nat) : Count := s.len + BitVec.ofNat 64 r

/-- H after the one or two final compressions (R164, R165). -/
def finalHash (s : State) (r : Nat) : Vector Word 8 :=
  let l := messageLength s r
  let x := compress s.h (words (firstBlock s.buf r l))
  if oneBlock r then x else compress x (words (secondBlock l))

/-- FINAL R: pad and compress the tail; LEN <- L; DONE <- 1 (R167). -/
def execFinal (r : Arg) (s : State) : Host.Outcome State Fault Refusal :=
  let n := tailLength r
  .next (setDone true (setLen (messageLength s n) (setHash (finalHash s n) s)))

end Sys2Proof.Machine
end

