-- ==== Sys2Proof/Machine/Mixing.lean ====
section
/-! DEFINITION. The meanings of the function commands ROTR, SHR, CH, MAJ, BSIG0, BSIG1, SSIG0 and SSIG1
(40_mixing_functions rules R111 to R119). Each writes RES only. -/

namespace Sys2Proof.Machine

/-- A command with a shift amount: RES <- f(OPX, n). ARG >= 32 is ILLEGAL_CMD (R112, R113): such a command has no word
that decodes to it. -/
def execShift (f : Word → Nat → Word) (n : Arg) (s : State) : Host.Outcome State Fault Refusal :=
  match shiftAmount n with
  | some k => .next (setRes (f s.opx k) s)
  | none => .next (raiseError .illegalCmd s)

/-- ROTR n: RES <- rotr(OPX, n) (R112). -/
def execRotr (n : Arg) (s : State) : Host.Outcome State Fault Refusal := execShift rotr n s

/-- SHR n: RES <- shr(OPX, n) (R113). -/
def execShr (n : Arg) (s : State) : Host.Outcome State Fault Refusal := execShift shr n s

/-- CH: RES <- Ch(OPX, OPY, OPZ) (R114). -/
def execCh (s : State) : Host.Outcome State Fault Refusal := .next (setRes (choose s.opx s.opy s.opz) s)

/-- MAJ: RES <- Maj(OPX, OPY, OPZ) (R115). -/
def execMaj (s : State) : Host.Outcome State Fault Refusal := .next (setRes (majority s.opx s.opy s.opz) s)

/-- BSIG0: RES <- Σ0(OPX) (R116). -/
def execBsig0 (s : State) : Host.Outcome State Fault Refusal := .next (setRes (bigSigma0 s.opx) s)

/-- BSIG1: RES <- Σ1(OPX) (R117). -/
def execBsig1 (s : State) : Host.Outcome State Fault Refusal := .next (setRes (bigSigma1 s.opx) s)

/-- SSIG0: RES <- σ0(OPX) (R118). -/
def execSsig0 (s : State) : Host.Outcome State Fault Refusal := .next (setRes (smallSigma0 s.opx) s)

/-- SSIG1: RES <- σ1(OPX) (R119). -/
def execSsig1 (s : State) : Host.Outcome State Fault Refusal := .next (setRes (smallSigma1 s.opx) s)

end Sys2Proof.Machine
end

