-- ==== Sys2Proof/Machine/ScheduleWord.lean ====
section
/-! DEFINITION. The meaning of SCHEDW (41_message_schedule rule R134). -/

namespace Sys2Proof.Machine

/-- SCHEDW i: RES <- schedule(BUF)[i] (R134). -/
def execSchedw (i : Arg) (s : State) : Host.Outcome State Fault Refusal :=
  .next (setRes ((schedule s.buf).getD (scheduleIndex i) 0) s)

end Sys2Proof.Machine
end

