-- ==== Sys2Proof/Machine/Port.lean ====
section
/-! DEFINITION. The register port: the address map, reads, writes and reset (20_memory rules R50 to R56, 70_reset_and_hazards
rules R199 to R201). A write of a command word decodes it and runs it. -/

namespace Sys2Proof.Machine

/-- What a word address names (20_memory rule R56). -/
inductive PortReg where
  | id
  | cmd
  | status
  | cfg
  | lenLo
  | lenHi
  /-- H0..H7. -/
  | h (i : Fin 8)
  /-- BUF0..BUF15. -/
  | buf (j : Fin 16)
  | opx
  | opy
  | opz
  | res
  /-- K0..K63. -/
  | k (i : Fin 64)
  /-- 0x06, 0x07, 0x24..0x3F. -/
  | reserved
  deriving DecidableEq, Repr

/-- The address map (20_memory rule R56). Every 7-bit address is decoded, without aliasing (R50). -/
def addressMap (a : PortAddr) : PortReg :=
  let n := a.toNat
  if n = 0x00 then .id
  else if n = 0x01 then .cmd
  else if n = 0x02 then .status
  else if n = 0x03 then .cfg
  else if n = 0x04 then .lenLo
  else if n = 0x05 then .lenHi
  else if n < 0x08 then .reserved
  else if n < 0x10 then .h (Fin.ofNat 8 (n - 0x08))
  else if n < 0x20 then .buf (Fin.ofNat 16 (n - 0x10))
  else if n = 0x20 then .opx
  else if n = 0x21 then .opy
  else if n = 0x22 then .opz
  else if n = 0x23 then .res
  else if n < 0x40 then .reserved
  else .k (Fin.ofNat 64 (n - 0x40))

/-- The word address of CMD (20_memory rule R56). -/
def cmdAddr : PortAddr := 0x01

/-- The value that a read of a register returns (20_memory rules R52, R53, R59). -/
def readReg (r : PortReg) (s : State) : Word :=
  match r with
  | .id => Rom.idWord
  | .cmd => 0
  | .status => statusWord s
  | .cfg => (BitVec.ofBool s.bswap).setWidth 32
  | .lenLo => s.len.extractLsb' 0 32
  | .lenHi => s.len.extractLsb' 32 32
  | .h i => windowData s (s.h.get i)
  | .buf j => windowData s (s.buf.get j)
  | .opx => s.opx
  | .opy => s.opy
  | .opz => s.opz
  | .res => s.res
  | .k i => Rom.k i.val
  | .reserved => 0

/-- PortRead(a): a value; no address has a side effect on read (20_memory rule R52). -/
def portRead (a : PortAddr) (s : State) : Word := readReg (addressMap a) s

/-- A word written to CMD: its command, or ILLEGAL_CMD and nothing else (30_encoding rule R83, 60_exceptions rule R183). -/
def runCommand (w : Word) (s : State) : Host.Outcome State Fault Refusal :=
  match decode w with
  | .ok i => exec i s
  | .error _ => .next (raiseError .illegalCmd s)

/-- A write of a register (20_memory rules R54, R55, R58). -/
def writeReg (r : PortReg) (v : Word) (s : State) : Host.Outcome State Fault Refusal :=
  match r with
  | .cmd => runCommand v s
  | .status => .next (if clearsError v then clearError s else s)
  | .cfg => .next (setBswap (v.getLsbD 0) s)
  | .lenLo => .next (setDone false (setLenLo v s))
  | .lenHi => .next (setDone false (setLenHi v s))
  | .h i => .next (setDone false (setH i (windowData s v) s))
  | .buf j => .next (setBuf j (windowData s v) s)
  | .opx => .next (setOpx v s)
  | .opy => .next (setOpy v s)
  | .opz => .next (setOpz v s)
  | .id => .next (raiseError .badAccess s)
  | .res => .next (raiseError .badAccess s)
  | .k _ => .next (raiseError .badAccess s)
  | .reserved => .next (raiseError .badAccess s)

/-- PortWrite(a, v) (20_memory rule R54). -/
def portWrite (a : PortAddr) (v : Word) (s : State) : Host.Outcome State Fault Refusal := writeReg (addressMap a) v s

/-- One port event, taken completely before the next (20_memory rules R65, R66; 70_reset_and_hazards rules R200, R201). -/
def portEvent (e : PortEvent) (s : State) : Host.Outcome State Fault Refusal :=
  match e with
  | .transact (.read a) => .next (setRdata (portRead a s) s)
  | .transact (.write a v) => portWrite a v s
  | .reset _ => .next (resetMachine s)

/-- The next port event, or nothing when the host asks for none: the core is then idle (60_exceptions rule R195; log
entry 5). -/
def takeEvent (s : State) : Host.Outcome State Fault Refusal :=
  match s.pending with
  | [] => .next s
  | e :: rest => portEvent e { s with pending := rest }

/-- The host's next request becomes a write of `w` to CMD: how a command comes to run (00_scope rule R6; log entry 1). -/
def requestCommand (w : Word) (s : State) : State :=
  { s with pending := .transact (.write cmdAddr w) :: s.pending }

end Sys2Proof.Machine
end

