-- ==== Sys2Proof/Machine/Step.lean ====
section
/-! DEFINITION. One step: the machine takes the host's next port event (70_reset_and_hazards rule R199: "a model treats each
completed transaction as one atomic step"). -/

namespace Sys2Proof.Machine

/-- One step. -/
def step (s : State) : Host.Outcome State Fault Refusal := takeEvent s

/-- `s` with the command word of the opcode table as the host's next write to CMD (log entry 1). -/
def State.withFetchWord (s : State) (nbits w : Nat) : State := requestCommand (BitVec.ofNat 32 (w % 2 ^ nbits)) s

end Sys2Proof.Machine
end

