-- ==== Sys2Proof/Machine/Datapath.lean ====
section
/-! DEFINITION. An iterated datapath for the compression: one round per tick and a sliding window of 16 schedule words,
which the spec allows and says changes no result (00_scope rule R9, 41_message_schedule rule R132, 42_compression rule
R144). `step` does not use it; the statements compare it with `compress`. -/

namespace Sys2Proof.Machine

/-- The internal state of 10_state rules R22, R35 and R37 while a compression runs. -/
structure Datapath where
  /-- The round counter. -/
  t : Nat
  /-- The working registers a..h. -/
  work : Working
  /-- The 16 schedule words W[t..t+15], the oldest first. -/
  window : Vector Word 16
  deriving DecidableEq, Repr

/-- The start of a compression: all of the internal state is initialised, whatever an earlier command left (10_state
rule R38). -/
def startDatapath (x : Vector Word 8) (b : Vector Word 16) (left : Datapath) : Datapath :=
  { left with t := 0, work := loadWorking x, window := b }

/-- The window one word further: W[t+16] enters, W[t] leaves (R131). -/
def slideWindow (v : Vector Word 16) : Vector Word 16 :=
  #v[v[1], v[2], v[3], v[4], v[5], v[6], v[7], v[8], v[9], v[10], v[11], v[12], v[13], v[14], v[15],
     smallSigma1 v[14] + v[9] + smallSigma0 v[1] + v[0]]

/-- Round t. -/
def tick (d : Datapath) : Datapath :=
  { t := d.t + 1, work := compressRound (Rom.k d.t) d.window[0] d.work, window := slideWindow d.window }

/-- `n` ticks. -/
def ticks : Nat → Datapath → Datapath
  | 0, d => d
  | n + 1, d => ticks n (tick d)

/-- A compression by the datapath, from the internal state that an earlier command left. -/
def compressIterated (left : Datapath) (x : Vector Word 8) (b : Vector Word 16) : Vector Word 8 :=
  accumulate x (ticks Config.rounds (startDatapath x b left)).work

end Sys2Proof.Machine
end

