-- ==== Sys2Proof/Machine/Pseudo.lean ====
section
/-! DEFINITION. The pseudo-instructions as the port transactions they expand to (30_encoding rules R87, R88). They are the
host's: `step` knows only the transactions. -/

namespace Sys2Proof.Machine

/-- `wr`: PortWrite(a, v) (R87). -/
def wr (a : PortAddr) (v : Word) : PortEvent := .transact (.write a v)

/-- `rd`: PortRead(a) (R87). -/
def rd (a : PortAddr) : PortEvent := .transact (.read a)

/-- A mnemonic: a write of its command word to CMD (R87). -/
def command (i : Instr) : PortEvent := wr cmdAddr (encode i)

/-- LOADBUF w0, ..., w15 (R88). -/
def loadBuf (b : Vector Word 16) : List PortEvent :=
  (List.range Config.blockWords).map (fun j => wr (BitVec.ofNat 7 (0x10 + j)) (b.toList.getD j 0))

/-- LOADOPS x, y, z (R88). -/
def loadOps (x y z : Word) : List PortEvent := [wr 0x20 x, wr 0x21 y, wr 0x22 z]

/-- SETLEN v (R88). -/
def setLenEvents (c : Count) : List PortEvent := [wr 0x04 (c.extractLsb' 0 32), wr 0x05 (c.extractLsb' 32 32)]

/-- READDIGEST (R88). -/
def readDigest : List PortEvent := (List.range 8).map (fun i => rd (BitVec.ofNat 7 (0x08 + i)))

/-- CLRERR (R88). -/
def clrErr : List PortEvent := [wr 0x02 0x00000002]

/-- The block of bytes 64k..64k+63 of a message, as words; past its end the bytes are 0 (R88 allows any). -/
def messageBlock (m : List Byte) (k : Nat) : Vector Word 16 := words (m.drop (Config.blockBytes * k))

/-- HASH m: INIT; LOADBUF and BLOCK for each full block; LOADBUF of the tail and FINAL R; READDIGEST (R88,
43_padding_framing rule R160). -/
def hashMessage (m : List Byte) : List PortEvent :=
  let n := m.length / Config.blockBytes
  [command .init] ++
  (List.range n).flatMap (fun k => loadBuf (messageBlock m k) ++ [command .block]) ++
  loadBuf (messageBlock m n) ++
  [command (.final (BitVec.ofNat 6 (m.length % Config.blockBytes)))] ++ readDigest

end Sys2Proof.Machine
end

