-- ==== Sys2Proof/Safety.lean ====
section
/-! DEFINITION. The terms the statements use: a legal STATUS, and the rules of the spec written as
relations and as functions of their own, beside the model's definitions and not through them. -/

namespace Sys2Proof.Spec

open Sys2Proof.Machine

/-- STATUS is legal: ERR = 0 exactly when ERRCODE = 0 (10_state rule R25), and ERRCODE is one of the codes that are ever
produced (60_exceptions rule R181). -/
def StatusLegal (s : State) : Prop := (s.err = false ↔ s.errcode = 0) ∧ s.errcode.toNat ≤ 2

/-- The state with an error raised, as 60_exceptions rule R182 writes it. -/
def raised (code : BitVec 4) (s : State) : State :=
  { s with err := true, errcode := if s.err then s.errcode else code }

/-- The command word `op | (arg << 8)`, as 41_message_schedule rule R134 and 43_padding_framing rule R167 write it. -/
def commandWord (op : Word) (arg : Arg) : Word := op ||| (arg.setWidth 32 <<< 8)

/-- The words written to CMD that are illegal, field by field (30_encoding rule R83, 60_exceptions rule R183). -/
def IllegalWord (w : Word) : Prop :=
  let op := (w.extractLsb' 0 8).toNat
  let arg := w.extractLsb' 8 6
  (op = 0x00 ∨ (0x05 ≤ op ∧ op ≤ 0x0F) ∨ 0x19 ≤ op) ∨
  w.extractLsb' 14 18 ≠ 0 ∨
  ((op ≠ 0x04 ∧ op ≠ 0x10 ∧ op ≠ 0x11 ∧ op ≠ 0x18) ∧ arg ≠ 0) ∨
  ((op = 0x10 ∨ op = 0x11) ∧ arg.getLsbD 5 = true)

/-- `op` is the one word of a command that takes no argument: "ARG must be 0" and RSV must be 0, so any other word with its
OPCODE is ILLEGAL_CMD and changes nothing else (30_encoding rules R80 and R83). -/
def OnlyWordOf (op : Word) (i : Instr) : Prop :=
  decode op = .ok i ∧
  ∀ (w : Word) (s : State), w.extractLsb' 0 8 = op.extractLsb' 0 8 → w ≠ op → portWrite 0x01 w s = .next (raised 1 s)

/-- The addresses whose write is a BAD_ACCESS (60_exceptions rule R184). -/
def NotWritable (a : PortAddr) : Prop :=
  let n := a.toNat
  n = 0x00 ∨ n = 0x06 ∨ n = 0x07 ∨ n = 0x23 ∨ (0x24 ≤ n ∧ n ≤ 0x3F) ∨ 0x40 ≤ n

/-- The H and BUF windows, the only data that CFG.BSWAP touches (20_memory rule R58). -/
def InSwappedWindow (a : PortAddr) : Prop := 0x08 ≤ a.toNat ∧ a.toNat ≤ 0x1F

/-- Byte k of a block held as canonical words (10_state rule R30). -/
def blockByte (b : Vector Word 16) (k : Fin 64) : Byte :=
  (b[k.val / 4]'(by omega)).extractLsb' (24 - 8 * (k.val % 4)) 8

/-- W[0..63] is the message schedule of a block (41_message_schedule rules R130, R131), with σ0 and σ1 written by the
library's rotation (40_mixing_functions rules R107, R108). -/
def IsSchedule (b : Vector Word 16) (w : Nat → Word) : Prop :=
  (∀ j : Fin 16, w j = b[j]) ∧
  ∀ i, 16 ≤ i → i < 64 →
    w i = ((w (i - 2)).rotateRight 17 ^^^ (w (i - 2)).rotateRight 19 ^^^ (w (i - 2)) >>> 10) + w (i - 7) +
      ((w (i - 15)).rotateRight 7 ^^^ (w (i - 15)).rotateRight 18 ^^^ (w (i - 15)) >>> 3) + w (i - 16)

/-- T1 of a round (42_compression rule R141). -/
def t1 (k w : Word) (r : Working) : Word :=
  r.h + (r.e.rotateRight 6 ^^^ r.e.rotateRight 11 ^^^ r.e.rotateRight 25) + ((r.e &&& r.f) ^^^ (~~~r.e &&& r.g)) + k + w

/-- T2 of a round (42_compression rule R141). -/
def t2 (r : Working) : Word :=
  (r.a.rotateRight 2 ^^^ r.a.rotateRight 13 ^^^ r.a.rotateRight 22) +
    ((r.a &&& r.b) ^^^ (r.a &&& r.c) ^^^ (r.b &&& r.c))

/-- `y` is the hash state that 42_compression rules R140, R141 and R142 give for hash state `x` and block `b`: there are a
schedule and working registers before each round that obey the rules. -/
def Compresses (x : Vector Word 8) (b : Vector Word 16) (y : Vector Word 8) : Prop :=
  ∃ (w : Nat → Word) (r : Nat → Working), IsSchedule b w ∧
    r 0 = ⟨x[0], x[1], x[2], x[3], x[4], x[5], x[6], x[7]⟩ ∧
    (∀ t, t < 64 →
      r (t + 1) = ⟨t1 (Rom.k t) (w t) (r t) + t2 (r t), (r t).a, (r t).b, (r t).c,
        (r t).d + t1 (Rom.k t) (w t) (r t), (r t).e, (r t).f, (r t).g⟩) ∧
    y = #v[x[0] + (r 64).a, x[1] + (r 64).b, x[2] + (r 64).c, x[3] + (r 64).d,
      x[4] + (r 64).e, x[5] + (r 64).f, x[6] + (r 64).g, x[7] + (r 64).h]

/-- Byte m of the length field of a message of `l` bytes, `l` taken modulo 2^64 (43_padding_framing rule R163). -/
def lengthByte (l : Count) (m : Nat) : Byte := (l * 8).extractLsb' (56 - 8 * m) 8

/-- `e` is a completed command with its event (rules that name events: 10_state rules R32, R39, R40). -/
def IsCommand (e : PortEvent) (i : Instr) : Prop := ∃ w, e = .transact (.write 0x01 w) ∧ decode w = .ok i

/-- DONE after an event, row by row of the table of 10_state rule R39. -/
def doneAfter (e : PortEvent) (s : State) : Bool :=
  match e with
  | .reset _ => false
  | .transact (.read _) => s.done
  | .transact (.write a v) =>
    if a = 0x01 then
      match decode v with
      | .ok .init => false
      | .ok .compress => false
      | .ok .block => false
      | .ok (.final _) => true
      | _ => s.done
    else if a = 0x04 ∨ a = 0x05 ∨ (0x08 ≤ a.toNat ∧ a.toNat ≤ 0x0F) then false
    else s.done

/-- The eight bytes of 8·L, big-endian (43_padding_framing rule R163). -/
def lengthBytes (n : Nat) : List Byte := (List.range 8).map (fun m => BitVec.ofNat 8 (8 * n / 2 ^ (56 - 8 * m)))

/-- A whole message, padded: 0x80, then the fewest zeros that leave room for the length field at the end of a block, then
the length field (43_padding_framing rules R162 to R165). -/
def paddedMessage (m : List Byte) : List Byte :=
  m ++ [0x80] ++ List.replicate ((119 - m.length % 64) % 64) 0 ++ lengthBytes m.length

/-- Word j of the block of bytes that begins at byte `at_` (00_scope rule R13). -/
def wordFrom (p : List Byte) (at_ j : Nat) : Word :=
  p.getD (at_ + 4 * j) 0 ++ p.getD (at_ + 4 * j + 1) 0 ++ p.getD (at_ + 4 * j + 2) 0 ++ p.getD (at_ + 4 * j + 3) 0

/-- The block that begins at byte `at_`. -/
def blockFrom (p : List Byte) (at_ : Nat) : Vector Word 16 :=
  #v[wordFrom p at_ 0, wordFrom p at_ 1, wordFrom p at_ 2, wordFrom p at_ 3, wordFrom p at_ 4, wordFrom p at_ 5,
     wordFrom p at_ 6, wordFrom p at_ 7, wordFrom p at_ 8, wordFrom p at_ 9, wordFrom p at_ 10, wordFrom p at_ 11,
     wordFrom p at_ 12, wordFrom p at_ 13, wordFrom p at_ 14, wordFrom p at_ 15]

/-- The hash of a message in one call: the initial hash value taken through every block of the padded message (00_scope
rule R2, 43_padding_framing rules R160 to R168). For fewer than 2^61 bytes it is the message's SHA-256 digest; from there on
the length field wraps and it is not (R169). -/
def oneCallHash (m : List Byte) : Vector Word 8 :=
  (List.range ((paddedMessage m).length / 64)).foldl
    (fun x k => compress x (blockFrom (paddedMessage m) (64 * k))) Rom.iv

end Sys2Proof.Spec
end

