-- ==== Sys2Proof/Certificates/Slice0/Obligations.lean ====
section
/-! DEFINITION. The statements for the provers, in the order of OBLIGATIONS.json. Their terms are in Sys2Proof/Safety.lean. -/

open Sys2Proof Sys2Proof.Machine

/-! ## Command words (30_encoding) -/

/-- Words written out from 30_encoding rule R82's patterns and from the examples of R87, R112, R113 and R134. -/
def Obligations.SampleCommandWordsDecode : Prop :=
  decode 0x00000001 = .ok .init ∧ decode 0x00000003 = .ok .block ∧ decode 0x00000304 = .ok (.final 3) ∧
  decode 0x00000710 = .ok (.rotr 7) ∧ decode 0x00000311 = .ok (.shr 3) ∧ decode 0x00000013 = .ok .maj ∧
  decode 0x00000017 = .ok .ssig1 ∧ decode 0x00001018 = .ok (.schedw 16) ∧
  decode 0x00000000 = .error .reservedOpcode ∧ decode 0x00002010 = .error .argTooLarge ∧
  decode 0x00004018 = .error .reservedBits ∧ decode 0x00000112 = .error .argNotZero

/-- Every well-formed command is read back from its word with every bit of its argument; a ROTR or SHR with ARG[5] = 1 is
rejected by name (30_encoding rules R80 to R83). -/
def Obligations.DecodeInvertsEncode : Prop :=
  ∀ i : Instr, decode (encode i) = if i.wf then .ok i else .error .argTooLarge

/-- A word that decodes is the word of the command it decodes to, and that command is well formed: no two words mean the
same command and no bit of a legal word is ignored. -/
def Obligations.EncodeInvertsDecode : Prop :=
  ∀ (w : Word) (i : Instr), decode w = .ok i → encode i = w ∧ i.wf = true

/-- A word written to CMD runs the row it matches with its ARG, or changes STATUS.ERR and STATUS.ERRCODE alone when it
matches none, which is when it is illegal field by field; no word matches two rows (30_encoding rules R82, R83;
60_exceptions rule R183). -/
def Obligations.CommandWriteRunsItsRow : Prop :=
  ∀ (w : Word) (s : State),
    (∀ row ∈ opcodeMap, w &&& row.mask = row.pattern →
      portWrite 0x01 w s = exec (row.build (w.extractLsb' 8 6)) s) ∧
    ((∀ row ∈ opcodeMap, w &&& row.mask ≠ row.pattern) → portWrite 0x01 w s = .next (Spec.raised 1 s)) ∧
    ((∀ row ∈ opcodeMap, w &&& row.mask ≠ row.pattern) ↔ Spec.IllegalWord w) ∧
    (∀ m n : Fin opcodeMap.length, w &&& opcodeMap[m].mask = opcodeMap[m].pattern →
      w &&& opcodeMap[n].mask = opcodeMap[n].pattern → m = n)

/-! ## Steps -/

/-- When the host's next event is a write to CMD of a word that decodes, the step is that command on the state with the
event taken: how the statements about commands reach a run. `pending` is the model's own (log entry 1). -/
def Obligations.StepRunsDecodedCommand : Prop :=
  ∀ (s : State) (w : Word) (i : Instr) (rest : List PortEvent),
    s.pending = .transact (.write 0x01 w) :: rest → decode w = .ok i → step s = exec i { s with pending := rest }

/-- The other events: a read answers its value and changes no register, a write is PortWrite, and with nothing asked for
the machine stays as it is (log entries 1, 2 and 5). -/
def Obligations.StepTakesOldestEvent : Prop :=
  ∀ (s : State) (rest : List PortEvent) (a : PortAddr) (v : Word),
    (s.pending = .transact (.read a) :: rest → step s = .next { s with pending := rest, rdata := portRead a s }) ∧
    (s.pending = .transact (.write a v) :: rest → step s = portWrite a v { s with pending := rest }) ∧
    (s.pending = [] → step s = .next s)

/-- No state faults or refuses, and every step takes exactly the oldest event: "no command can fail once decoded"
(60_exceptions rule R185), "every CMD write completes" (70 rule R210). That the host's requests are the list `pending`, that
a reset event keeps the rest of it, and that a step with nothing asked for completes, are the model's choices (log entries
1, 3 and 5). -/
def Obligations.EveryStepCompletes : Prop :=
  ∀ s : State, ∃ t, step s = .next t ∧ t.pending = s.pending.tail

/-! ## Reset -/

/-- The reset values of 10_state rule R41, and what the constant windows read then. -/
def Obligations.ResetStateHoldsResetValues : Prop :=
  State.reset.done = false ∧ State.reset.err = false ∧ State.reset.errcode = 0 ∧ State.reset.bswap = false ∧
  State.reset.len = 0 ∧
  State.reset.h = #v[0x6a09e667, 0xbb67ae85, 0x3c6ef372, 0xa54ff53a, 0x510e527f, 0x9b05688c, 0x1f83d9ab, 0x5be0cd19] ∧
  (∀ j : Fin 16, State.reset.buf[j] = 0) ∧
  State.reset.opx = 0 ∧ State.reset.opy = 0 ∧ State.reset.opz = 0 ∧ State.reset.res = 0 ∧
  portRead 0x00 State.reset = 0x53323536 ∧ portRead 0x40 State.reset = 0x428a2f98 ∧
  portRead 0x7F State.reset = 0xc67178f2

/-- `rst = 1`, with or without a transaction in progress, leaves every register at its reset value and takes the event; the
transaction in progress leaves no trace (70 rules R200, R201). `pending`, and that a reset keeps it, is the model's own (log entries 1 and 3). -/
def Obligations.ResetEventRestoresEveryRegister : Prop :=
  ∀ (s : State) (inProgress : Option Transaction) (rest : List PortEvent),
    s.pending = .reset inProgress :: rest →
    ∃ t, step s = .next t ∧ t.pending = rest ∧
      t.done = false ∧ t.err = false ∧ t.errcode = 0 ∧ t.bswap = false ∧ t.len = 0 ∧
      t.h = State.reset.h ∧ t.buf = State.reset.buf ∧
      t.opx = 0 ∧ t.opy = 0 ∧ t.opz = 0 ∧ t.res = 0

/-! ## The register port (20_memory) -/

/-- PortRead, address by address (20_memory rules R52, R53), and a completed read writes no register: only
`rdata`, the model's own record of the answered value (log entry 2), changes. -/
def Obligations.PortReadFollowsTheMap : Prop :=
  ∀ s : State,
    portRead 0x00 s = 0x53323536 ∧ portRead 0x01 s = 0 ∧
    portRead 0x02 s = (0 : BitVec 24) ++ s.errcode ++ (0 : BitVec 2) ++ BitVec.ofBool s.err ++ BitVec.ofBool s.done ∧
    portRead 0x03 s = (if s.bswap then 1 else 0) ∧
    portRead 0x04 s = s.len.extractLsb' 0 32 ∧ portRead 0x05 s = s.len.extractLsb' 32 32 ∧
    (∀ i : Fin 8, portRead (BitVec.ofNat 7 (0x08 + i)) s = if s.bswap then bswap32 s.h[i] else s.h[i]) ∧
    (∀ j : Fin 16, portRead (BitVec.ofNat 7 (0x10 + j)) s = if s.bswap then bswap32 s.buf[j] else s.buf[j]) ∧
    portRead 0x20 s = s.opx ∧ portRead 0x21 s = s.opy ∧ portRead 0x22 s = s.opz ∧ portRead 0x23 s = s.res ∧
    (∀ i : Fin 64, portRead (BitVec.ofNat 7 (0x40 + i)) s = Rom.k i) ∧
    (∀ a : PortAddr, a = 0x06 ∨ a = 0x07 ∨ (0x24 ≤ a.toNat ∧ a.toNat ≤ 0x3F) → portRead a s = 0) ∧
    (∀ a : PortAddr, ∃ t, portEvent (.transact (.read a)) s = .next t ∧ { t with rdata := s.rdata } = s)

/-- PortWrite, address by address (20_memory rules R54, R55; 10_state rule R26 for STATUS). -/
def Obligations.PortWriteFollowsTheMap : Prop :=
  ∀ (s : State) (v : Word),
    (∀ i, decode v = .ok i → portWrite 0x01 v s = exec i s) ∧
    (∀ e, decode v = .error e → portWrite 0x01 v s = .next (Spec.raised 1 s)) ∧
    portWrite 0x02 v s = .next (if v.getLsbD 1 then { s with err := false, errcode := 0 } else s) ∧
    portWrite 0x03 v s = .next { s with bswap := v.getLsbD 0 } ∧
    portWrite 0x04 v s = .next { s with len := s.len.extractLsb' 32 32 ++ v, done := false } ∧
    portWrite 0x05 v s = .next { s with len := v ++ s.len.extractLsb' 0 32, done := false } ∧
    (∀ i : Fin 8, portWrite (BitVec.ofNat 7 (0x08 + i)) v s =
      .next { s with h := s.h.set i (if s.bswap then bswap32 v else v), done := false }) ∧
    (∀ j : Fin 16, portWrite (BitVec.ofNat 7 (0x10 + j)) v s =
      .next { s with buf := s.buf.set j (if s.bswap then bswap32 v else v) }) ∧
    portWrite 0x20 v s = .next { s with opx := v } ∧ portWrite 0x21 v s = .next { s with opy := v } ∧
    portWrite 0x22 v s = .next { s with opz := v } ∧
    (∀ a : PortAddr, Spec.NotWritable a → portWrite a v s = .next (Spec.raised 2 s))

/-- A write to a writable word of H or BUF and a read of it with the same BSWAP give the written value back, and the read
is the swapped stored word exactly when BSWAP = 1 (20_memory rule R59). -/
def Obligations.WindowWordReadsBackAsWritten : Prop :=
  ∀ (a : PortAddr) (v : Word) (s : State), Spec.InSwappedWindow a →
    ∃ t, portWrite a v s = .next t ∧ t.bswap = s.bswap ∧ portRead a t = v ∧
      (∀ i : Fin 8, a.toNat = 0x08 + i → t.h[i] = if s.bswap then bswap32 v else v) ∧
      (∀ j : Fin 16, a.toNat = 0x10 + j → t.buf[j] = if s.bswap then bswap32 v else v)

/-- The host that stores four message bytes as a little-endian word leaves BUFj canonical when BSWAP = 1 (20_memory rules
R57, R58; 10_state rule R30). -/
def Obligations.LittleEndianWriteIsCanonical : Prop :=
  ∀ (j : Fin 16) (b0 b1 b2 b3 : Byte) (s : State), s.bswap = true →
    ∃ t, portWrite (BitVec.ofNat 7 (0x10 + j)) (b3 ++ b2 ++ b1 ++ b0) s = .next t ∧
      t.buf[j] = b0 ++ b1 ++ b2 ++ b3 ∧
      Spec.blockByte t.buf ⟨4 * j, by omega⟩ = b0 ∧ Spec.blockByte t.buf ⟨4 * j + 1, by omega⟩ = b1 ∧
      Spec.blockByte t.buf ⟨4 * j + 2, by omega⟩ = b2 ∧ Spec.blockByte t.buf ⟨4 * j + 3, by omega⟩ = b3

/-- Digest byte 4i + m is H[i][31 - 8m : 24 - 8m]; with BSWAP = 0 the host reads the word, with BSWAP = 1 it reads the same
bytes in the order of a little-endian word (20_memory rule R60). -/
def Obligations.DigestBytesReadInOrder : Prop :=
  ∀ (s : State) (i : Fin 8),
    (s.bswap = false → portRead (BitVec.ofNat 7 (0x08 + i)) s = s.h[i]) ∧
    (s.bswap = true → ∀ m, m < 4 →
      (portRead (BitVec.ofNat 7 (0x08 + i)) s).extractLsb' (8 * m) 8 = (s.h[i]).extractLsb' (24 - 8 * m) 8)

/-- A write to any address but CMD leaves every other address reading as before, but for what the spec says it also
changes: STATUS, and the H and BUF windows when CFG is written (20_memory rules R50, R54; 70 rule R209). -/
def Obligations.WriteLeavesOtherAddressesAlone : Prop :=
  ∀ (a b : PortAddr) (v : Word) (s : State),
    a ≠ 0x01 → b ≠ a → b ≠ 0x02 → (a = 0x03 → ¬ Spec.InSwappedWindow b) →
    ∃ t, portWrite a v s = .next t ∧ portRead b t = portRead b s

/-- "a write is idempotent except a write to CMD" (20_memory rule R64). -/
def Obligations.WritesAreIdempotent : Prop :=
  ∀ (a : PortAddr) (v : Word) (s : State), a ≠ 0x01 →
    ∃ t, portWrite a v s = .next t ∧ portWrite a v t = .next t

/-! ## STATUS -/

/-- STATUS is legal after reset. -/
def Obligations.ResetStatusLegal : Prop := Spec.StatusLegal State.reset

/-- Every step keeps STATUS legal: ERR = 0 exactly when ERRCODE = 0, and no code but 0, 1 and 2 (10_state rule R25,
60_exceptions rule R181). -/
def Obligations.StepKeepsStatusLegal : Prop :=
  ∀ s t : State, Spec.StatusLegal s → step s = .next t → Spec.StatusLegal t

/-- DONE after every event is what the table of 10_state rule R39 says. -/
def Obligations.DoneFollowsItsTable : Prop :=
  ∀ (e : PortEvent) (s : State), ∃ t, portEvent e s = .next t ∧ t.done = Spec.doneAfter e s

/-- DONE = 1 means that the last FINAL's H and LEN still stand (10_state rule R25): an event other than FINAL that ends with
DONE = 1 began with it and changed neither. -/
def Obligations.DoneMeansDigestUntouched : Prop :=
  ∀ (e : PortEvent) (s t : State), portEvent e s = .next t → t.done = true → (∀ r, ¬ Spec.IsCommand e (.final r)) →
    s.done = true ∧ t.h = s.h ∧ t.len = s.len

/-- ERR and ERRCODE change only by an illegal command word, a bad access, the write-1-to-clear of STATUS, or reset
(10_state rule R40), and an error that stands is changed only by the last two (60_exceptions rules R182, R188). -/
def Obligations.ErrorFlagsWrittenOnlyBy : Prop :=
  ∀ (e : PortEvent) (s t : State), portEvent e s = .next t → (t.err ≠ s.err ∨ t.errcode ≠ s.errcode) →
    (s.err = false ∧ ∃ w, e = .transact (.write 0x01 w) ∧ Spec.IllegalWord w) ∨
    (s.err = false ∧ ∃ a v, e = .transact (.write a v) ∧ Spec.NotWritable a) ∨
    (∃ v, e = .transact (.write 0x02 v) ∧ v.getLsbD 1 = true) ∨ ∃ x, e = .reset x

/-- Which events can change a register (10_state rules R27 to R32): BUF, OPX, OPY, OPZ and CFG by no command, RES by the
function commands and SCHEDW alone, H and LEN by the hashing commands and the host's own writes. -/
def Obligations.RegistersWrittenOnlyBy : Prop :=
  ∀ (e : PortEvent) (s t : State), portEvent e s = .next t → (∀ x, e ≠ .reset x) →
    (t.bswap ≠ s.bswap → ∃ v, e = .transact (.write 0x03 v)) ∧
    (t.buf ≠ s.buf → ∃ a v, e = .transact (.write a v) ∧ 0x10 ≤ a.toNat ∧ a.toNat ≤ 0x1F) ∧
    (t.opx ≠ s.opx → ∃ v, e = .transact (.write 0x20 v)) ∧
    (t.opy ≠ s.opy → ∃ v, e = .transact (.write 0x21 v)) ∧
    (t.opz ≠ s.opz → ∃ v, e = .transact (.write 0x22 v)) ∧
    (t.res ≠ s.res → ∃ i, Spec.IsCommand e i ∧
      ((∃ n, i = .rotr n) ∨ (∃ n, i = .shr n) ∨ i = .ch ∨ i = .maj ∨ i = .bsig0 ∨ i = .bsig1 ∨ i = .ssig0 ∨
        i = .ssig1 ∨ ∃ n, i = .schedw n)) ∧
    (t.h ≠ s.h → (∃ a v, e = .transact (.write a v) ∧ 0x08 ≤ a.toNat ∧ a.toNat ≤ 0x0F) ∨
      ∃ i, Spec.IsCommand e i ∧ (i = .init ∨ i = .compress ∨ i = .block ∨ ∃ r, i = .final r)) ∧
    (t.len ≠ s.len → (∃ v, e = .transact (.write 0x04 v)) ∨ (∃ v, e = .transact (.write 0x05 v)) ∨
      ∃ i, Spec.IsCommand e i ∧ (i = .init ∨ i = .block ∨ ∃ r, i = .final r))

/-! ## The function commands (40_mixing_functions) -/

/-- ROTR n: RES bit j is OPX bit (j + n) mod 32, and nothing but RES changes; ARG >= 32 is ILLEGAL_CMD (40_mixing_functions
rules R101, R112). -/
def Obligations.RotrRotatesRight : Prop :=
  (∀ (n : Arg) (s : State), n.toNat < 32 →
    decode (Spec.commandWord 0x10 n) = .ok (.rotr n) ∧
    ∃ v : Word, exec (.rotr n) s = .next { s with res := v } ∧
      ∀ j, j < 32 → v.getLsbD j = s.opx.getLsbD ((j + n.toNat) % 32)) ∧
  ∀ (n : Arg) (s : State), 32 ≤ n.toNat →
    portWrite 0x01 (Spec.commandWord 0x10 n) s = .next (Spec.raised 1 s)

/-- SHR n: RES = ⌊OPX / 2^n⌋, and nothing but RES changes; ARG >= 32 is ILLEGAL_CMD (40_mixing_functions rules R102,
R113). -/
def Obligations.ShrDividesByPowerOfTwo : Prop :=
  (∀ (n : Arg) (s : State), n.toNat < 32 →
    decode (Spec.commandWord 0x11 n) = .ok (.shr n) ∧
    ∃ v : Word, exec (.shr n) s = .next { s with res := v } ∧ v.toNat = s.opx.toNat / 2 ^ n.toNat) ∧
  ∀ (n : Arg) (s : State), 32 ≤ n.toNat →
    portWrite 0x01 (Spec.commandWord 0x11 n) s = .next (Spec.raised 1 s)

/-- CH: each bit of RES is OPY's where OPX's is 1 and OPZ's where it is 0 (40_mixing_functions rules R103, R114). -/
def Obligations.ChChoosesBitByBit : Prop :=
  Spec.OnlyWordOf 0x00000012 .ch ∧
  ∀ s : State, ∃ v : Word, exec .ch s = .next { s with res := v } ∧
    v = (s.opx &&& s.opy) ^^^ (~~~s.opx &&& s.opz) ∧
    ∀ j, j < 32 → v.getLsbD j = if s.opx.getLsbD j then s.opy.getLsbD j else s.opz.getLsbD j

/-- MAJ: each bit of RES is the majority of the bits of OPX, OPY and OPZ (40_mixing_functions rules R104, R115). -/
def Obligations.MajTakesMajorityBitByBit : Prop :=
  Spec.OnlyWordOf 0x00000013 .maj ∧
  ∀ s : State, ∃ v : Word, exec .maj s = .next { s with res := v } ∧
    v = (s.opx &&& s.opy) ^^^ (s.opx &&& s.opz) ^^^ (s.opy &&& s.opz) ∧
    ∀ j, j < 32 → (v.getLsbD j = true ↔
      2 ≤ (s.opx.getLsbD j).toNat + (s.opy.getLsbD j).toNat + (s.opz.getLsbD j).toNat)

/-- BSIG0 and BSIG1 write RES with Σ0 and Σ1 of OPX and change nothing else (40_mixing_functions rules R105, R106, R116,
R117). -/
def Obligations.BigSigmasCombineRotations : Prop :=
  Spec.OnlyWordOf 0x00000014 .bsig0 ∧ Spec.OnlyWordOf 0x00000015 .bsig1 ∧
  ∀ s : State,
    exec .bsig0 s =
      .next { s with res := s.opx.rotateRight 2 ^^^ s.opx.rotateRight 13 ^^^ s.opx.rotateRight 22 } ∧
    exec .bsig1 s =
      .next { s with res := s.opx.rotateRight 6 ^^^ s.opx.rotateRight 11 ^^^ s.opx.rotateRight 25 }

/-- SSIG0 and SSIG1 write RES with σ0 and σ1 of OPX and change nothing else (40_mixing_functions rules R107, R108, R118,
R119). -/
def Obligations.SmallSigmasCombineRotationsAndShift : Prop :=
  Spec.OnlyWordOf 0x00000016 .ssig0 ∧ Spec.OnlyWordOf 0x00000017 .ssig1 ∧
  ∀ s : State,
    exec .ssig0 s = .next { s with res := s.opx.rotateRight 7 ^^^ s.opx.rotateRight 18 ^^^ s.opx >>> 3 } ∧
    exec .ssig1 s = .next { s with res := s.opx.rotateRight 17 ^^^ s.opx.rotateRight 19 ^^^ s.opx >>> 10 }

/-! ## The message schedule (41_message_schedule) -/

/-- SCHEDW i writes RES with word i of a schedule of BUF that obeys rules R130 and R131, for every i in 0..63, and changes
nothing else; reserved bits give ILLEGAL_CMD (41_message_schedule rule R134). -/
def Obligations.SchedwWritesScheduleWord : Prop :=
  ∀ s : State, ∃ w : Nat → Word, Spec.IsSchedule s.buf w ∧
    ∀ i : Arg, decode (Spec.commandWord 0x18 i) = .ok (.schedw i) ∧
      exec (.schedw i) s = .next { s with res := w i.toNat } ∧
      ∀ v : Word, v.extractLsb' 0 8 = 0x18 → v.extractLsb' 14 18 ≠ 0 → portWrite 0x01 v s = .next (Spec.raised 1 s)

/-! ## Compression (42_compression) -/

/-- `compress` is the one hash state that rules R140, R141 and R142 allow, for every hash state and block (42_compression
rule R143: a total, deterministic function of the two). -/
def Obligations.CompressIsTheRules : Prop :=
  ∀ (x : Vector Word 8) (b : Vector Word 16) (y : Vector Word 8), Spec.Compresses x b y ↔ y = compress x b

/-- INIT: H is the initial hash value, LEN and DONE are 0, nothing else changes, and a second INIT changes nothing
(42_compression rule R145). -/
def Obligations.InitStartsMessage : Prop :=
  Spec.OnlyWordOf 0x00000001 .init ∧
  ∀ s : State, ∃ t, exec .init s = .next t ∧ exec .init t = .next t ∧
    t = { s with
      h := #v[0x6a09e667, 0xbb67ae85, 0x3c6ef372, 0xa54ff53a, 0x510e527f, 0x9b05688c, 0x1f83d9ab, 0x5be0cd19]
      len := 0
      done := false }

/-- COMPRESS: H is the compression of H and BUF by rules R140 to R142, DONE is 0, nothing else changes (42_compression rule
R146). -/
def Obligations.CompressUpdatesHash : Prop :=
  Spec.OnlyWordOf 0x00000002 .compress ∧
  ∀ s : State, ∃ y, Spec.Compresses s.h s.buf y ∧ exec .compress s = .next { s with h := y, done := false }

/-- BLOCK: COMPRESS, and LEN gains 64 modulo 2^64 (42_compression rule R147). -/
def Obligations.BlockUpdatesHashAndLength : Prop :=
  Spec.OnlyWordOf 0x00000003 .block ∧
  ∀ s : State, ∃ (y : Vector Word 8) (l : Count), Spec.Compresses s.h s.buf y ∧
    l.toNat = (s.len.toNat + 64) % 2 ^ 64 ∧
    exec .block s = .next { s with h := y, len := l, done := false }

/-! ## Padding (43_padding_framing) -/

/-- FINAL R with R < 56: one block of the tail bytes, 0x80, zeros and the length field is compressed; LEN is L, DONE is 1,
nothing else changes (43_padding_framing rules R161 to R164, R167). -/
def Obligations.FinalPadsShortTailInOneBlock : Prop :=
  ∀ (r : Arg) (s : State), r.toNat < 56 →
    decode (Spec.commandWord 0x04 r) = .ok (.final r) ∧
    ∃ (l : Count) (blk : Vector Word 16) (y : Vector Word 8),
      l.toNat = (s.len.toNat + r.toNat) % 2 ^ 64 ∧
      (∀ k : Fin 64, Spec.blockByte blk k =
        if k < r.toNat then Spec.blockByte s.buf k
        else if k = r.toNat then 0x80
        else if k.val < 56 then 0
        else Spec.lengthByte l (k - 56)) ∧
      Spec.Compresses s.h blk y ∧ exec (.final r) s = .next { s with h := y, len := l, done := true }

/-- FINAL R with R >= 56: the tail, 0x80 and zeros to byte 63 are compressed first, then 56 zeros with the length field
(43_padding_framing rules R161 to R163, R165, R167). -/
def Obligations.FinalPadsLongTailInTwoBlocks : Prop :=
  ∀ (r : Arg) (s : State), 56 ≤ r.toNat →
    decode (Spec.commandWord 0x04 r) = .ok (.final r) ∧
    ∃ (l : Count) (blk1 blk2 : Vector Word 16) (x y : Vector Word 8),
      l.toNat = (s.len.toNat + r.toNat) % 2 ^ 64 ∧
      (∀ k : Fin 64, Spec.blockByte blk1 k =
        if k < r.toNat then Spec.blockByte s.buf k else if k = r.toNat then 0x80 else 0) ∧
      (∀ k : Fin 64, Spec.blockByte blk2 k = if k.val < 56 then 0 else Spec.lengthByte l (k - 56)) ∧
      Spec.Compresses s.h blk1 x ∧ Spec.Compresses x blk2 y ∧
      exec (.final r) s = .next { s with h := y, len := l, done := true }

/-- FINAL 0 is not skipped: the block is 0x80, zeros and the length field (43_padding_framing rule R166). -/
def Obligations.FinalOfEmptyTailStillPads : Prop :=
  ∀ s : State, ∃ y,
    Spec.Compresses s.h
      #v[0x80000000, 0, 0, 0, 0, 0, 0, 0, 0, 0, 0, 0, 0, 0, (s.len * 8).extractLsb' 32 32, (s.len * 8).extractLsb' 0 32]
      y ∧
    exec (.final 0) s = .next { s with h := y, done := true }

/-- FINAL R: the bytes R..63 of BUF "have no effect on any result" and BUF is not modified (43_padding_framing rule
R161). -/
def Obligations.FinalIgnoresBytesBeyondTail : Prop :=
  ∀ (r : Arg) (s : State) (b : Vector Word 16),
    (∀ k : Fin 64, k < r.toNat → Spec.blockByte b k = Spec.blockByte s.buf k) →
    ∃ t, exec (.final r) s = .next t ∧ t.buf = s.buf ∧
      exec (.final r) { s with buf := b } = .next { t with buf := b }

/-! ## All commands -/

/-- Every well-formed command completes and leaves BUF, OPX, OPY, OPZ, CFG and the error alone (10_state rules R30, R31,
R40; 60_exceptions rule R185), and the model's own `pending` and `rdata` too (log entries 1 and 2). -/
def Obligations.CommandsLeaveOperandsAndErrorAlone : Prop :=
  ∀ (i : Instr) (s : State), i.wf = true → ∃ t, exec i s = .next t ∧
    t.buf = s.buf ∧ t.opx = s.opx ∧ t.opy = s.opy ∧ t.opz = s.opz ∧ t.bswap = s.bswap ∧
    t.err = s.err ∧ t.errcode = s.errcode ∧ t.pending = s.pending ∧ t.rdata = s.rdata

/-- No command reads STATUS or CFG: from states that differ in them alone every command gives the same H, LEN and RES
(10_state rules R39, R40; 20_memory rule R62). -/
def Obligations.CommandsIgnoreStatusAndByteSwap : Prop :=
  ∀ (i : Instr) (s : State) (d e b : Bool) (c : BitVec 4), i.wf = true →
    ∃ t u, exec i s = .next t ∧ exec i { s with done := d, err := e, errcode := c, bswap := b } = .next u ∧
      u.h = t.h ∧ u.len = t.len ∧ u.res = t.res

/-- INIT leaves no residue of an earlier message: after it, the hash state, length and DONE of any further command depend
on BUF alone (70 rule R205, 10_state rule R38). -/
def Obligations.InitLeavesNoResidue : Prop :=
  ∀ (i : Instr) (s u : State), i.wf = true → s.buf = u.buf →
    ∃ s1 u1 s2 u2, exec .init s = .next s1 ∧ exec .init u = .next u1 ∧ exec i s1 = .next s2 ∧ exec i u1 = .next u2 ∧
      s2.h = u2.h ∧ s2.len = u2.len ∧ s2.done = u2.done

/-! ## Tables -/

/-- The 64 round constants are the first 32 bits of the fractional parts of the cube roots of the first 64 primes
(40_mixing_functions rule R100): with p the prime that has t primes below it, K[t] = ⌊cbrt(p)·2^32⌋ mod 2^32. -/
def Obligations.RoundConstantsAreCubeRoots : Prop :=
  ∀ t : Fin 64, ∃ p c : Nat, Nat.Prime p ∧ Nat.count Nat.Prime p = t ∧
    c ^ 3 ≤ p * 2 ^ 96 ∧ p * 2 ^ 96 < (c + 1) ^ 3 ∧ (Rom.k t).toNat = c % 2 ^ 32

/-- The initial hash value is the first 32 bits of the fractional parts of the square roots of the first eight primes
(40_mixing_functions rule R109). -/
def Obligations.InitialHashIsSquareRoots : Prop :=
  ∀ i : Fin 8, ∃ p c : Nat, Nat.Prime p ∧ Nat.count Nat.Prime p = i ∧
    c ^ 2 ≤ p * 2 ^ 64 ∧ p * 2 ^ 64 < (c + 1) ^ 2 ∧ (Rom.iv[i]).toNat = c % 2 ^ 32

/-! ## Refinement and runs of the host -/

/-- A datapath that does one round per tick over a sliding window of 16 schedule words computes `compress` (00_scope rule
R9, 41_message_schedule rule R132, 42_compression rule R144). It begins, as 10_state rule R38 has every command do, by
initialising all of its internal state, so `left` has no part in the result. -/
def Obligations.IteratedDatapathComputesCompress : Prop :=
  ∀ (left : Datapath) (x : Vector Word 8) (b : Vector Word 16), compressIterated left x b = compress x b

/-- What the host's shorthands leave: LOADBUF (with BSWAP = 0) the sixteen words in BUF, LOADOPS the operands, SETLEN the
64-bit LEN by its two halves, CLRERR no error; nothing else changes (30_encoding rule R88). The events are the model's
`pending` (log entry 1). -/
def Obligations.ShorthandsLeaveTheirRegisters : Prop :=
  ∀ (s : State) (rest : List PortEvent) (b : Vector Word 16) (x y z : Word) (c : Count),
    (s.bswap = false →
      core.run 16 { s with pending := loadBuf b ++ rest } = .next { s with buf := b, pending := rest }) ∧
    core.run 3 { s with pending := loadOps x y z ++ rest } =
      .next { s with opx := x, opy := y, opz := z, pending := rest } ∧
    core.run 2 { s with pending := setLenEvents c ++ rest } =
      .next { s with len := c, done := false, pending := rest } ∧
    core.run 1 { s with pending := clrErr ++ rest } = .next { s with err := false, errcode := 0, pending := rest }

/-- The host's sequence for a message of any length, INIT, LOADBUF and BLOCK for each full block, LOADBUF and FINAL for the
tail, then the eight reads, ends with H the hash that `Spec.oneCallHash` gives for the whole message, DONE = 1 and LEN its
length modulo 2^64 (43_padding_framing rules R160, R168; 70 rule R204; 30_encoding rule R88). For a message of fewer than
2^61 bytes that hash is its SHA-256 digest; from 2^61 bytes on the length field wraps on both sides and it is not
(43_padding_framing rule R169). The statement holds from every state with BSWAP = 0. The events are the model's `pending`
(log entry 1), what the last read answered stands in the model's `rdata` (log entry 2), and the bytes that fill the last
LOADBUF are zeros (log entry 6). -/
def Obligations.HashSequenceAgreesWithOneCall : Prop :=
  ∀ (m : List Byte) (s : State), s.bswap = false →
    ∃ t, core.run (hashMessage m).length { s with pending := hashMessage m } = .next t ∧
      t.pending = [] ∧ t.h = Spec.oneCallHash m ∧ t.rdata = (Spec.oneCallHash m)[7] ∧
      t.done = true ∧ t.len.toNat = m.length % 2 ^ 64 ∧ t.err = s.err ∧ t.errcode = s.errcode
end

