-- ==== Sys2Proof/Laws/Bytes.lean ====
section
/-! SUPPORT. Bytes of words and the port's byte swap (00_scope rules R12, R13). -/

namespace Sys2Proof.Machine

/-- The four fields of a concatenation, at any widths. -/
theorem extract_append_four {p q r u : Nat} (a : BitVec p) (b : BitVec q) (c : BitVec r) (d : BitVec u) :
    (a ++ b ++ c ++ d).extractLsb' 0 u = d ∧ (a ++ b ++ c ++ d).extractLsb' u r = c ∧
      (a ++ b ++ c ++ d).extractLsb' (u + r) q = b ∧ (a ++ b ++ c ++ d).extractLsb' (u + r + q) p = a := by
  refine ⟨?_, ?_, ?_, ?_⟩ <;> ext i hi <;>
    simp [BitVec.getLsbD_append, hi, Nat.add_assoc]

/-- A word is its four bytes. -/
theorem bytes_of_word (w : Word) :
    w.extractLsb' 24 8 ++ w.extractLsb' 16 8 ++ w.extractLsb' 8 8 ++ w.extractLsb' 0 8 = w := by
  rw [BitVec.extractLsb'_append_extractLsb'_eq_extractLsb' (by rfl),
    BitVec.extractLsb'_append_extractLsb'_eq_extractLsb' (by rfl),
    BitVec.extractLsb'_append_extractLsb'_eq_extractLsb' (by rfl)]
  simp

/-- The byte swap of a word given by its bytes. -/
theorem bswap32_bytes (a b c d : Byte) : bswap32 (a ++ b ++ c ++ d) = d ++ c ++ b ++ a := by
  obtain ⟨h0, h1, h2, h3⟩ := extract_append_four a b c d
  exact congr (congrArg _ (congr (congrArg _ (congr (congrArg _ h0) h1)) h2)) h3

/-- Two swaps give the word back. -/
@[simp] theorem bswap32_bswap32 (w : Word) : bswap32 (bswap32 w) = w := by
  rw [← bytes_of_word w, bswap32_bytes, bswap32_bytes]

/-- The bytes of a big-endian word. -/
theorem byteOfWord_bigEndian32 (a b c d : Byte) :
    byteOfWord (bigEndian32 a b c d) 0 = a ∧ byteOfWord (bigEndian32 a b c d) 1 = b ∧
      byteOfWord (bigEndian32 a b c d) 2 = c ∧ byteOfWord (bigEndian32 a b c d) 3 = d := by
  obtain ⟨h0, h1, h2, h3⟩ := extract_append_four a b c d
  exact ⟨h3, h2, h1, h0⟩

end Sys2Proof.Machine
end

