-- ==== Sys2Proof/Laws/Decode.lean ====
section
/-! SUPPORT. A command word is its three fields, and a row of the opcode map selects a word by its fields (30_encoding rules
R80 to R83). -/

namespace Sys2Proof

theorem word_eq_fields (w : Word) : rsvField w ++ argField w ++ opcodeField w = w := by
  rw [rsvField, argField, opcodeField, BitVec.extractLsb'_append_extractLsb'_eq_extractLsb' (by rfl),
    BitVec.extractLsb'_append_extractLsb'_eq_extractLsb' (by rfl)]
  simp

/-- The three fields of a concatenation, at any widths. -/
theorem extract_append_fields {p q r : Nat} (a : BitVec p) (b : BitVec q) (c : BitVec r) :
    (a ++ b ++ c).extractLsb' 0 r = c ∧ (a ++ b ++ c).extractLsb' r q = b ∧ (a ++ b ++ c).extractLsb' (r + q) p = a := by
  refine ⟨?_, ?_, ?_⟩ <;> ext i hi <;> simp [BitVec.getLsbD_append, hi, Nat.add_assoc]

@[simp] theorem opcodeField_fields (a : BitVec 18) (b : Arg) (c : BitVec 8) : opcodeField (a ++ b ++ c) = c :=
  (extract_append_fields a b c).1

@[simp] theorem argField_fields (a : BitVec 18) (b : Arg) (c : BitVec 8) : argField (a ++ b ++ c) = b :=
  (extract_append_fields a b c).2.1

@[simp] theorem rsvField_fields (a : BitVec 18) (b : Arg) (c : BitVec 8) : rsvField (a ++ b ++ c) = a :=
  (extract_append_fields a b c).2.2

/-- Two words are equal exactly when their fields are. -/
theorem word_ext_fields {a a' : BitVec 18} {b b' : Arg} {c c' : BitVec 8} :
    a ++ b ++ c = a' ++ b' ++ c' ↔ a = a' ∧ b = b' ∧ c = c' := by
  constructor
  · intro h
    exact ⟨by simpa using congrArg rsvField h, by simpa using congrArg argField h, by simpa using congrArg opcodeField h⟩
  · rintro ⟨rfl, rfl, rfl⟩; rfl

/-- A word under a mask, field by field. -/
theorem masked_eq_iff (w : Word) (a a' : BitVec 18) (b b' : Arg) (c c' : BitVec 8) :
    w &&& (a ++ b ++ c) = a' ++ b' ++ c' ↔
      rsvField w &&& a = a' ∧ argField w &&& b = b' ∧ opcodeField w &&& c = c' := by
  rw [← word_eq_fields w, BitVec.and_append, BitVec.and_append, word_ext_fields]
  simp

/-- A row without ARG selects the words with its opcode, ARG = 0 and RSV = 0. -/
theorem masked_noArg (w : Word) (op : BitVec 8) :
    w &&& 0xFFFFFFFF = (0 : BitVec 18) ++ (0 : Arg) ++ op ↔ rsvField w = 0 ∧ argField w = 0 ∧ opcodeField w = op := by
  rw [show (0xFFFFFFFF : Word) = BitVec.allOnes 18 ++ BitVec.allOnes 6 ++ BitVec.allOnes 8 by decide, masked_eq_iff]
  simp only [BitVec.and_allOnes]

/-- A row with a 6-bit ARG selects the words with its opcode and RSV = 0. -/
theorem masked_arg6 (w : Word) (op : BitVec 8) :
    w &&& 0xFFFFC0FF = (0 : BitVec 18) ++ (0 : Arg) ++ op ↔ rsvField w = 0 ∧ opcodeField w = op := by
  rw [show (0xFFFFC0FF : Word) = BitVec.allOnes 18 ++ (0 : Arg) ++ BitVec.allOnes 8 by decide, masked_eq_iff]
  simp only [BitVec.and_allOnes, show (0 : Arg) = 0#6 from rfl, BitVec.and_zero, true_and]

/-- A row with a 5-bit ARG selects the words with its opcode, ARG[5] = 0 and RSV = 0. -/
theorem masked_arg5 (w : Word) (op : BitVec 8) :
    w &&& 0xFFFFE0FF = (0 : BitVec 18) ++ (0 : Arg) ++ op ↔
      rsvField w = 0 ∧ (argField w).toNat < 32 ∧ opcodeField w = op := by
  rw [show (0xFFFFE0FF : Word) = BitVec.allOnes 18 ++ (0x20 : Arg) ++ BitVec.allOnes 8 by decide, masked_eq_iff]
  have h : ∀ b : Arg, b &&& 0x20 = 0 ↔ b.toNat < 32 := by decide
  simp only [BitVec.and_allOnes, h]

/-! ### The rows of the opcode map, by the fields of the word -/

theorem selects_noArg (w p : Word) (f : Arg → Instr) (op : BitVec 8) (hp : p = (0 : BitVec 18) ++ (0 : Arg) ++ op) :
    OpcodeRow.selects ⟨p, 0xFFFFFFFF, f⟩ w = decide (rsvField w = 0 ∧ argField w = 0 ∧ opcodeField w = op) := by
  rw [OpcodeRow.selects, Bool.eq_iff_iff, beq_iff_eq, decide_eq_true_iff, hp]
  exact masked_noArg w op

theorem selects_arg6 (w p : Word) (f : Arg → Instr) (op : BitVec 8) (hp : p = (0 : BitVec 18) ++ (0 : Arg) ++ op) :
    OpcodeRow.selects ⟨p, 0xFFFFC0FF, f⟩ w = decide (rsvField w = 0 ∧ opcodeField w = op) := by
  rw [OpcodeRow.selects, Bool.eq_iff_iff, beq_iff_eq, decide_eq_true_iff, hp]
  exact masked_arg6 w op

theorem selects_arg5 (w p : Word) (f : Arg → Instr) (op : BitVec 8) (hp : p = (0 : BitVec 18) ++ (0 : Arg) ++ op) :
    OpcodeRow.selects ⟨p, 0xFFFFE0FF, f⟩ w =
      decide (rsvField w = 0 ∧ (argField w).toNat < 32 ∧ opcodeField w = op) := by
  rw [OpcodeRow.selects, Bool.eq_iff_iff, beq_iff_eq, decide_eq_true_iff, hp]
  exact masked_arg5 w op

/-- The inversion of decoding: OPCODE is the command's, ARG is its argument, RSV is 0 and ARG fits (R83). -/
theorem decode_fields {w : Word} {i : Instr} (h : decode w = .ok i) :
    rsvField w = 0 ∧ opcodeField w = opcode i ∧ argField w = argOf i ∧ i.wf = true := by
  unfold decode at h
  split at h
  · rename_i row hrow
    cases h
    have hs := List.find?_some hrow
    have hm := List.mem_of_find?_eq_some hrow
    have noArg {p : Word} {j : Instr} (hs : OpcodeRow.selects ⟨p, 0xFFFFFFFF, fun _ => j⟩ w = true)
        (hp : p = (0 : BitVec 18) ++ (0 : Arg) ++ opcode j) (ha : argOf j = 0) (hw : j.wf = true) :
        rsvField w = 0 ∧ opcodeField w = opcode j ∧ argField w = argOf j ∧ j.wf = true := by
      rw [selects_noArg w p _ _ hp, decide_eq_true_iff] at hs
      exact ⟨hs.1, hs.2.2, hs.2.1.trans ha.symm, hw⟩
    have arg6 {p : Word} {f : Arg → Instr} (op : BitVec 8) (hs : OpcodeRow.selects ⟨p, 0xFFFFC0FF, f⟩ w = true)
        (hp : p = (0 : BitVec 18) ++ (0 : Arg) ++ op) : rsvField w = 0 ∧ opcodeField w = op := by
      rwa [selects_arg6 w p _ _ hp, decide_eq_true_iff] at hs
    have arg5 {p : Word} {f : Arg → Instr} (op : BitVec 8) (hs : OpcodeRow.selects ⟨p, 0xFFFFE0FF, f⟩ w = true)
        (hp : p = (0 : BitVec 18) ++ (0 : Arg) ++ op) :
        rsvField w = 0 ∧ (argField w).toNat < 32 ∧ opcodeField w = op := by
      rwa [selects_arg5 w p _ _ hp, decide_eq_true_iff] at hs
    simp only [opcodeMap, List.cons_append, List.nil_append, List.mem_cons, List.not_mem_nil, or_false] at hm
    rcases hm with rfl | rfl | rfl | rfl | rfl | rfl | rfl | rfl | rfl | rfl | rfl | rfl | rfl
    · exact noArg (j := .init) hs (by decide) rfl rfl
    · exact noArg (j := .compress) hs (by decide) rfl rfl
    · exact noArg (j := .block) hs (by decide) rfl rfl
    · exact ⟨(arg6 0x04 hs rfl).1, (arg6 0x04 hs rfl).2, rfl, rfl⟩
    · obtain ⟨hr, ha, ho⟩ := arg5 0x10 hs rfl
      exact ⟨hr, ho, rfl, decide_eq_true ha⟩
    · obtain ⟨hr, ha, ho⟩ := arg5 0x11 hs rfl
      exact ⟨hr, ho, rfl, decide_eq_true ha⟩
    · exact noArg (j := .ch) hs (by decide) rfl rfl
    · exact noArg (j := .maj) hs (by decide) rfl rfl
    · exact noArg (j := .bsig0) hs (by decide) rfl rfl
    · exact noArg (j := .bsig1) hs (by decide) rfl rfl
    · exact noArg (j := .ssig0) hs (by decide) rfl rfl
    · exact noArg (j := .ssig1) hs (by decide) rfl rfl
    · exact ⟨(arg6 0x18 hs rfl).1, (arg6 0x18 hs rfl).2, rfl, rfl⟩
  · cases h

end Sys2Proof
end

