-- ==== Sys2Proof/Laws/State.lean ====
section
/-! SUPPORT. One lemma per field per update of the state, so that no proof unfolds a record update. -/

namespace Sys2Proof.Machine

variable (s : State)

/-! `setDone` -/

@[simp] theorem setDone_done (b : Bool) : (setDone b s).done = b := rfl
@[simp] theorem setDone_err (b : Bool) : (setDone b s).err = s.err := rfl
@[simp] theorem setDone_errcode (b : Bool) : (setDone b s).errcode = s.errcode := rfl
@[simp] theorem setDone_bswap (b : Bool) : (setDone b s).bswap = s.bswap := rfl
@[simp] theorem setDone_len (b : Bool) : (setDone b s).len = s.len := rfl
@[simp] theorem setDone_h (b : Bool) : (setDone b s).h = s.h := rfl
@[simp] theorem setDone_buf (b : Bool) : (setDone b s).buf = s.buf := rfl
@[simp] theorem setDone_opx (b : Bool) : (setDone b s).opx = s.opx := rfl
@[simp] theorem setDone_opy (b : Bool) : (setDone b s).opy = s.opy := rfl
@[simp] theorem setDone_opz (b : Bool) : (setDone b s).opz = s.opz := rfl
@[simp] theorem setDone_res (b : Bool) : (setDone b s).res = s.res := rfl
@[simp] theorem setDone_pending (b : Bool) : (setDone b s).pending = s.pending := rfl
@[simp] theorem setDone_rdata (b : Bool) : (setDone b s).rdata = s.rdata := rfl

/-! `clearError` -/

@[simp] theorem clearError_done : (clearError s).done = s.done := rfl
@[simp] theorem clearError_err : (clearError s).err = false := rfl
@[simp] theorem clearError_errcode : (clearError s).errcode = 0 := rfl
@[simp] theorem clearError_bswap : (clearError s).bswap = s.bswap := rfl
@[simp] theorem clearError_len : (clearError s).len = s.len := rfl
@[simp] theorem clearError_h : (clearError s).h = s.h := rfl
@[simp] theorem clearError_buf : (clearError s).buf = s.buf := rfl
@[simp] theorem clearError_opx : (clearError s).opx = s.opx := rfl
@[simp] theorem clearError_opy : (clearError s).opy = s.opy := rfl
@[simp] theorem clearError_opz : (clearError s).opz = s.opz := rfl
@[simp] theorem clearError_res : (clearError s).res = s.res := rfl
@[simp] theorem clearError_pending : (clearError s).pending = s.pending := rfl
@[simp] theorem clearError_rdata : (clearError s).rdata = s.rdata := rfl

/-! `setBswap` -/

@[simp] theorem setBswap_done (b : Bool) : (setBswap b s).done = s.done := rfl
@[simp] theorem setBswap_err (b : Bool) : (setBswap b s).err = s.err := rfl
@[simp] theorem setBswap_errcode (b : Bool) : (setBswap b s).errcode = s.errcode := rfl
@[simp] theorem setBswap_bswap (b : Bool) : (setBswap b s).bswap = b := rfl
@[simp] theorem setBswap_len (b : Bool) : (setBswap b s).len = s.len := rfl
@[simp] theorem setBswap_h (b : Bool) : (setBswap b s).h = s.h := rfl
@[simp] theorem setBswap_buf (b : Bool) : (setBswap b s).buf = s.buf := rfl
@[simp] theorem setBswap_opx (b : Bool) : (setBswap b s).opx = s.opx := rfl
@[simp] theorem setBswap_opy (b : Bool) : (setBswap b s).opy = s.opy := rfl
@[simp] theorem setBswap_opz (b : Bool) : (setBswap b s).opz = s.opz := rfl
@[simp] theorem setBswap_res (b : Bool) : (setBswap b s).res = s.res := rfl
@[simp] theorem setBswap_pending (b : Bool) : (setBswap b s).pending = s.pending := rfl
@[simp] theorem setBswap_rdata (b : Bool) : (setBswap b s).rdata = s.rdata := rfl

/-! `setLen` -/

@[simp] theorem setLen_done (c : Count) : (setLen c s).done = s.done := rfl
@[simp] theorem setLen_err (c : Count) : (setLen c s).err = s.err := rfl
@[simp] theorem setLen_errcode (c : Count) : (setLen c s).errcode = s.errcode := rfl
@[simp] theorem setLen_bswap (c : Count) : (setLen c s).bswap = s.bswap := rfl
@[simp] theorem setLen_len (c : Count) : (setLen c s).len = c := rfl
@[simp] theorem setLen_h (c : Count) : (setLen c s).h = s.h := rfl
@[simp] theorem setLen_buf (c : Count) : (setLen c s).buf = s.buf := rfl
@[simp] theorem setLen_opx (c : Count) : (setLen c s).opx = s.opx := rfl
@[simp] theorem setLen_opy (c : Count) : (setLen c s).opy = s.opy := rfl
@[simp] theorem setLen_opz (c : Count) : (setLen c s).opz = s.opz := rfl
@[simp] theorem setLen_res (c : Count) : (setLen c s).res = s.res := rfl
@[simp] theorem setLen_pending (c : Count) : (setLen c s).pending = s.pending := rfl
@[simp] theorem setLen_rdata (c : Count) : (setLen c s).rdata = s.rdata := rfl

/-! `setHash` -/

@[simp] theorem setHash_done (x : Vector Word 8) : (setHash x s).done = s.done := rfl
@[simp] theorem setHash_err (x : Vector Word 8) : (setHash x s).err = s.err := rfl
@[simp] theorem setHash_errcode (x : Vector Word 8) : (setHash x s).errcode = s.errcode := rfl
@[simp] theorem setHash_bswap (x : Vector Word 8) : (setHash x s).bswap = s.bswap := rfl
@[simp] theorem setHash_len (x : Vector Word 8) : (setHash x s).len = s.len := rfl
@[simp] theorem setHash_h (x : Vector Word 8) : (setHash x s).h = x := rfl
@[simp] theorem setHash_buf (x : Vector Word 8) : (setHash x s).buf = s.buf := rfl
@[simp] theorem setHash_opx (x : Vector Word 8) : (setHash x s).opx = s.opx := rfl
@[simp] theorem setHash_opy (x : Vector Word 8) : (setHash x s).opy = s.opy := rfl
@[simp] theorem setHash_opz (x : Vector Word 8) : (setHash x s).opz = s.opz := rfl
@[simp] theorem setHash_res (x : Vector Word 8) : (setHash x s).res = s.res := rfl
@[simp] theorem setHash_pending (x : Vector Word 8) : (setHash x s).pending = s.pending := rfl
@[simp] theorem setHash_rdata (x : Vector Word 8) : (setHash x s).rdata = s.rdata := rfl

/-! `setBuf` -/

@[simp] theorem setBuf_done (j : Fin 16) (v : Word) : (setBuf j v s).done = s.done := rfl
@[simp] theorem setBuf_err (j : Fin 16) (v : Word) : (setBuf j v s).err = s.err := rfl
@[simp] theorem setBuf_errcode (j : Fin 16) (v : Word) : (setBuf j v s).errcode = s.errcode := rfl
@[simp] theorem setBuf_bswap (j : Fin 16) (v : Word) : (setBuf j v s).bswap = s.bswap := rfl
@[simp] theorem setBuf_len (j : Fin 16) (v : Word) : (setBuf j v s).len = s.len := rfl
@[simp] theorem setBuf_h (j : Fin 16) (v : Word) : (setBuf j v s).h = s.h := rfl
@[simp] theorem setBuf_buf (j : Fin 16) (v : Word) : (setBuf j v s).buf = s.buf.set j v := rfl
@[simp] theorem setBuf_opx (j : Fin 16) (v : Word) : (setBuf j v s).opx = s.opx := rfl
@[simp] theorem setBuf_opy (j : Fin 16) (v : Word) : (setBuf j v s).opy = s.opy := rfl
@[simp] theorem setBuf_opz (j : Fin 16) (v : Word) : (setBuf j v s).opz = s.opz := rfl
@[simp] theorem setBuf_res (j : Fin 16) (v : Word) : (setBuf j v s).res = s.res := rfl
@[simp] theorem setBuf_pending (j : Fin 16) (v : Word) : (setBuf j v s).pending = s.pending := rfl
@[simp] theorem setBuf_rdata (j : Fin 16) (v : Word) : (setBuf j v s).rdata = s.rdata := rfl

/-! `setOpx` -/

@[simp] theorem setOpx_done (v : Word) : (setOpx v s).done = s.done := rfl
@[simp] theorem setOpx_err (v : Word) : (setOpx v s).err = s.err := rfl
@[simp] theorem setOpx_errcode (v : Word) : (setOpx v s).errcode = s.errcode := rfl
@[simp] theorem setOpx_bswap (v : Word) : (setOpx v s).bswap = s.bswap := rfl
@[simp] theorem setOpx_len (v : Word) : (setOpx v s).len = s.len := rfl
@[simp] theorem setOpx_h (v : Word) : (setOpx v s).h = s.h := rfl
@[simp] theorem setOpx_buf (v : Word) : (setOpx v s).buf = s.buf := rfl
@[simp] theorem setOpx_opx (v : Word) : (setOpx v s).opx = v := rfl
@[simp] theorem setOpx_opy (v : Word) : (setOpx v s).opy = s.opy := rfl
@[simp] theorem setOpx_opz (v : Word) : (setOpx v s).opz = s.opz := rfl
@[simp] theorem setOpx_res (v : Word) : (setOpx v s).res = s.res := rfl
@[simp] theorem setOpx_pending (v : Word) : (setOpx v s).pending = s.pending := rfl
@[simp] theorem setOpx_rdata (v : Word) : (setOpx v s).rdata = s.rdata := rfl

/-! `setOpy` -/

@[simp] theorem setOpy_done (v : Word) : (setOpy v s).done = s.done := rfl
@[simp] theorem setOpy_err (v : Word) : (setOpy v s).err = s.err := rfl
@[simp] theorem setOpy_errcode (v : Word) : (setOpy v s).errcode = s.errcode := rfl
@[simp] theorem setOpy_bswap (v : Word) : (setOpy v s).bswap = s.bswap := rfl
@[simp] theorem setOpy_len (v : Word) : (setOpy v s).len = s.len := rfl
@[simp] theorem setOpy_h (v : Word) : (setOpy v s).h = s.h := rfl
@[simp] theorem setOpy_buf (v : Word) : (setOpy v s).buf = s.buf := rfl
@[simp] theorem setOpy_opx (v : Word) : (setOpy v s).opx = s.opx := rfl
@[simp] theorem setOpy_opy (v : Word) : (setOpy v s).opy = v := rfl
@[simp] theorem setOpy_opz (v : Word) : (setOpy v s).opz = s.opz := rfl
@[simp] theorem setOpy_res (v : Word) : (setOpy v s).res = s.res := rfl
@[simp] theorem setOpy_pending (v : Word) : (setOpy v s).pending = s.pending := rfl
@[simp] theorem setOpy_rdata (v : Word) : (setOpy v s).rdata = s.rdata := rfl

/-! `setOpz` -/

@[simp] theorem setOpz_done (v : Word) : (setOpz v s).done = s.done := rfl
@[simp] theorem setOpz_err (v : Word) : (setOpz v s).err = s.err := rfl
@[simp] theorem setOpz_errcode (v : Word) : (setOpz v s).errcode = s.errcode := rfl
@[simp] theorem setOpz_bswap (v : Word) : (setOpz v s).bswap = s.bswap := rfl
@[simp] theorem setOpz_len (v : Word) : (setOpz v s).len = s.len := rfl
@[simp] theorem setOpz_h (v : Word) : (setOpz v s).h = s.h := rfl
@[simp] theorem setOpz_buf (v : Word) : (setOpz v s).buf = s.buf := rfl
@[simp] theorem setOpz_opx (v : Word) : (setOpz v s).opx = s.opx := rfl
@[simp] theorem setOpz_opy (v : Word) : (setOpz v s).opy = s.opy := rfl
@[simp] theorem setOpz_opz (v : Word) : (setOpz v s).opz = v := rfl
@[simp] theorem setOpz_res (v : Word) : (setOpz v s).res = s.res := rfl
@[simp] theorem setOpz_pending (v : Word) : (setOpz v s).pending = s.pending := rfl
@[simp] theorem setOpz_rdata (v : Word) : (setOpz v s).rdata = s.rdata := rfl

/-! `setRes` -/

@[simp] theorem setRes_done (v : Word) : (setRes v s).done = s.done := rfl
@[simp] theorem setRes_err (v : Word) : (setRes v s).err = s.err := rfl
@[simp] theorem setRes_errcode (v : Word) : (setRes v s).errcode = s.errcode := rfl
@[simp] theorem setRes_bswap (v : Word) : (setRes v s).bswap = s.bswap := rfl
@[simp] theorem setRes_len (v : Word) : (setRes v s).len = s.len := rfl
@[simp] theorem setRes_h (v : Word) : (setRes v s).h = s.h := rfl
@[simp] theorem setRes_buf (v : Word) : (setRes v s).buf = s.buf := rfl
@[simp] theorem setRes_opx (v : Word) : (setRes v s).opx = s.opx := rfl
@[simp] theorem setRes_opy (v : Word) : (setRes v s).opy = s.opy := rfl
@[simp] theorem setRes_opz (v : Word) : (setRes v s).opz = s.opz := rfl
@[simp] theorem setRes_res (v : Word) : (setRes v s).res = v := rfl
@[simp] theorem setRes_pending (v : Word) : (setRes v s).pending = s.pending := rfl
@[simp] theorem setRes_rdata (v : Word) : (setRes v s).rdata = s.rdata := rfl

/-! `setRdata` -/

@[simp] theorem setRdata_done (v : Word) : (setRdata v s).done = s.done := rfl
@[simp] theorem setRdata_err (v : Word) : (setRdata v s).err = s.err := rfl
@[simp] theorem setRdata_errcode (v : Word) : (setRdata v s).errcode = s.errcode := rfl
@[simp] theorem setRdata_bswap (v : Word) : (setRdata v s).bswap = s.bswap := rfl
@[simp] theorem setRdata_len (v : Word) : (setRdata v s).len = s.len := rfl
@[simp] theorem setRdata_h (v : Word) : (setRdata v s).h = s.h := rfl
@[simp] theorem setRdata_buf (v : Word) : (setRdata v s).buf = s.buf := rfl
@[simp] theorem setRdata_opx (v : Word) : (setRdata v s).opx = s.opx := rfl
@[simp] theorem setRdata_opy (v : Word) : (setRdata v s).opy = s.opy := rfl
@[simp] theorem setRdata_opz (v : Word) : (setRdata v s).opz = s.opz := rfl
@[simp] theorem setRdata_res (v : Word) : (setRdata v s).res = s.res := rfl
@[simp] theorem setRdata_pending (v : Word) : (setRdata v s).pending = s.pending := rfl
@[simp] theorem setRdata_rdata (v : Word) : (setRdata v s).rdata = v := rfl

/-! `raiseError`: it writes `err` and `errcode` only, and only when no error stands (60_exceptions rule R182). -/

@[simp] theorem raiseError_done (e : ErrorKind) : (raiseError e s).done = s.done := by
  cases h : s.err <;> simp [raiseError, h]
@[simp] theorem raiseError_err (e : ErrorKind) : (raiseError e s).err = true := by
  cases h : s.err <;> simp [raiseError, h]
@[simp] theorem raiseError_errcode (e : ErrorKind) :
    (raiseError e s).errcode = if s.err then s.errcode else errorCode e := by
  cases h : s.err <;> simp [raiseError, h]
@[simp] theorem raiseError_bswap (e : ErrorKind) : (raiseError e s).bswap = s.bswap := by
  cases h : s.err <;> simp [raiseError, h]
@[simp] theorem raiseError_len (e : ErrorKind) : (raiseError e s).len = s.len := by
  cases h : s.err <;> simp [raiseError, h]
@[simp] theorem raiseError_h (e : ErrorKind) : (raiseError e s).h = s.h := by
  cases h : s.err <;> simp [raiseError, h]
@[simp] theorem raiseError_buf (e : ErrorKind) : (raiseError e s).buf = s.buf := by
  cases h : s.err <;> simp [raiseError, h]
@[simp] theorem raiseError_opx (e : ErrorKind) : (raiseError e s).opx = s.opx := by
  cases h : s.err <;> simp [raiseError, h]
@[simp] theorem raiseError_opy (e : ErrorKind) : (raiseError e s).opy = s.opy := by
  cases h : s.err <;> simp [raiseError, h]
@[simp] theorem raiseError_opz (e : ErrorKind) : (raiseError e s).opz = s.opz := by
  cases h : s.err <;> simp [raiseError, h]
@[simp] theorem raiseError_res (e : ErrorKind) : (raiseError e s).res = s.res := by
  cases h : s.err <;> simp [raiseError, h]
@[simp] theorem raiseError_pending (e : ErrorKind) : (raiseError e s).pending = s.pending := by
  cases h : s.err <;> simp [raiseError, h]
@[simp] theorem raiseError_rdata (e : ErrorKind) : (raiseError e s).rdata = s.rdata := by
  cases h : s.err <;> simp [raiseError, h]

/-! `resetMachine`: the registers of `State.reset`, the host's side kept. -/

@[simp] theorem resetMachine_done : (resetMachine s).done = State.reset.done := rfl
@[simp] theorem resetMachine_err : (resetMachine s).err = State.reset.err := rfl
@[simp] theorem resetMachine_errcode : (resetMachine s).errcode = State.reset.errcode := rfl
@[simp] theorem resetMachine_bswap : (resetMachine s).bswap = State.reset.bswap := rfl
@[simp] theorem resetMachine_len : (resetMachine s).len = State.reset.len := rfl
@[simp] theorem resetMachine_h : (resetMachine s).h = State.reset.h := rfl
@[simp] theorem resetMachine_buf : (resetMachine s).buf = State.reset.buf := rfl
@[simp] theorem resetMachine_opx : (resetMachine s).opx = State.reset.opx := rfl
@[simp] theorem resetMachine_opy : (resetMachine s).opy = State.reset.opy := rfl
@[simp] theorem resetMachine_opz : (resetMachine s).opz = State.reset.opz := rfl
@[simp] theorem resetMachine_res : (resetMachine s).res = State.reset.res := rfl
@[simp] theorem resetMachine_pending : (resetMachine s).pending = s.pending := rfl
@[simp] theorem resetMachine_rdata : (resetMachine s).rdata = s.rdata := rfl

/-! The updates that are other updates of a computed value. -/

@[simp] theorem setLenLo_eq (v : Word) : setLenLo v s = setLen (s.len.extractLsb' 32 32 ++ v) s := rfl
@[simp] theorem setLenHi_eq (v : Word) : setLenHi v s = setLen (v ++ s.len.extractLsb' 0 32) s := rfl
@[simp] theorem setH_eq (i : Fin 8) (v : Word) : setH i v s = setHash (s.h.set i v) s := rfl

end Sys2Proof.Machine
end

