-- ==== Sys2Proof/Laws/Exec.lean ====
section
/-! SUPPORT. What a command can do, once: every command answers a next state of one of four shapes. -/

namespace Sys2Proof.Machine

/-- The shapes of a command's next state: INIT, COMPRESS, BLOCK and FINAL write H, LEN and DONE; a function command writes
RES; an ARG that no word encodes raises ILLEGAL_CMD. -/
inductive CommandShape (s : State) : Instr → State → Prop where
  | init : CommandShape s .init { s with h := Rom.iv, len := 0, done := false }
  | compress : CommandShape s .compress { s with h := compress s.h s.buf, done := false }
  | block : CommandShape s .block { s with h := compress s.h s.buf, len := s.len + 64, done := false }
  | final (r : Arg) :
      CommandShape s (.final r) { s with h := finalHash s r.toNat, len := messageLength s r.toNat, done := true }
  | rotr (n : Arg) (hn : n.toNat < 32) : CommandShape s (.rotr n) { s with res := Machine.rotr s.opx n.toNat }
  | shr (n : Arg) (hn : n.toNat < 32) : CommandShape s (.shr n) { s with res := Machine.shr s.opx n.toNat }
  | rotrIllegal (n : Arg) (hn : ¬ n.toNat < 32) : CommandShape s (.rotr n) (raiseError .illegalCmd s)
  | shrIllegal (n : Arg) (hn : ¬ n.toNat < 32) : CommandShape s (.shr n) (raiseError .illegalCmd s)
  | ch : CommandShape s .ch { s with res := choose s.opx s.opy s.opz }
  | maj : CommandShape s .maj { s with res := majority s.opx s.opy s.opz }
  | bsig0 : CommandShape s .bsig0 { s with res := bigSigma0 s.opx }
  | bsig1 : CommandShape s .bsig1 { s with res := bigSigma1 s.opx }
  | ssig0 : CommandShape s .ssig0 { s with res := smallSigma0 s.opx }
  | ssig1 : CommandShape s .ssig1 { s with res := smallSigma1 s.opx }
  | schedw (i : Arg) : CommandShape s (.schedw i) { s with res := (schedule s.buf).getD i.toNat 0 }

/-- The shared operation of ROTR and SHR. -/
theorem execShift_of_lt (f : Word → Nat → Word) (n : Arg) (s : State) (hn : n.toNat < 32) :
    execShift f n s = .next { s with res := f s.opx n.toNat } := by
  simp [execShift, shiftAmount, hn, setRes]

theorem execShift_of_ge (f : Word → Nat → Word) (n : Arg) (s : State) (hn : ¬ n.toNat < 32) :
    execShift f n s = .next (raiseError .illegalCmd s) := by
  simp [execShift, shiftAmount, hn]

/-- Every command answers a next state, and it has its shape. -/
theorem exec_shape (i : Instr) (s : State) : ∃ t, exec i s = .next t ∧ CommandShape s i t := by
  cases i with
  | rotr n =>
    by_cases hn : n.toNat < 32
    · exact ⟨_, execShift_of_lt rotr n s hn, .rotr n hn⟩
    · exact ⟨_, execShift_of_ge rotr n s hn, .rotrIllegal n hn⟩
  | shr n =>
    by_cases hn : n.toNat < 32
    · exact ⟨_, execShift_of_lt shr n s hn, .shr n hn⟩
    · exact ⟨_, execShift_of_ge shr n s hn, .shrIllegal n hn⟩
  | _ => exact ⟨_, rfl, by constructor⟩

/-- The inversion: a command's next state has its shape. -/
theorem exec_cases {i : Instr} {s t : State} (h : exec i s = .next t) : CommandShape s i t := by
  obtain ⟨u, hu, hs⟩ := exec_shape i s
  cases hu.symm.trans h
  exact hs

end Sys2Proof.Machine
end

