-- ==== Sys2Proof/Laws/Functions.lean ====
section
/-! SUPPORT. The mixing functions against the library's rotation and bit by bit (40_mixing_functions rules R101 to R108). -/

namespace Sys2Proof.Machine

theorem rotr_eq_rotateRight (x : Word) (n : Nat) (hn : n < 32) : rotr x n = x.rotateRight n := by
  unfold rotr
  split
  · subst n; simp [BitVec.rotateRight, BitVec.rotateRightAux]
  · rw [BitVec.rotateRight, BitVec.rotateRightAux, Nat.mod_eq_of_lt hn]

theorem rotr_getLsbD (x : Word) (n j : Nat) (hn : n < 32) (hj : j < 32) :
    (rotr x n).getLsbD j = x.getLsbD ((j + n) % 32) := by
  rw [rotr_eq_rotateRight x n hn, BitVec.getLsbD_rotateRight, Nat.mod_eq_of_lt hn]
  by_cases h : j < 32 - n
  · simp only [h, decide_true, cond_true]; congr 1; omega
  · simp only [h, hj, decide_false, decide_true, cond_false, Bool.true_and]; congr 1; omega

theorem shr_toNat (x : Word) (n : Nat) : (shr x n).toNat = x.toNat / 2 ^ n := by
  simp [shr, Nat.shiftRight_eq_div_pow]

theorem choose_getLsbD (x y z : Word) (j : Nat) (hj : j < 32) :
    (choose x y z).getLsbD j = if x.getLsbD j then y.getLsbD j else z.getLsbD j := by
  cases hx : x.getLsbD j <;>
    simp only [choose, BitVec.getLsbD_xor, BitVec.getLsbD_and, BitVec.getLsbD_not, hx, hj] <;> simp

theorem majority_getLsbD (x y z : Word) (j : Nat) :
    (majority x y z).getLsbD j =
      (x.getLsbD j && y.getLsbD j || x.getLsbD j && z.getLsbD j || y.getLsbD j && z.getLsbD j) := by
  cases hx : x.getLsbD j <;> cases hy : y.getLsbD j <;> cases hz : z.getLsbD j <;> simp [majority, hx, hy, hz]

theorem bigSigma0_eq (x : Word) : bigSigma0 x = x.rotateRight 2 ^^^ x.rotateRight 13 ^^^ x.rotateRight 22 := by
  simp [bigSigma0, rotr_eq_rotateRight]

theorem bigSigma1_eq (x : Word) : bigSigma1 x = x.rotateRight 6 ^^^ x.rotateRight 11 ^^^ x.rotateRight 25 := by
  simp [bigSigma1, rotr_eq_rotateRight]

theorem smallSigma0_eq (x : Word) : smallSigma0 x = x.rotateRight 7 ^^^ x.rotateRight 18 ^^^ x >>> 3 := by
  simp [smallSigma0, shr, rotr_eq_rotateRight]

theorem smallSigma1_eq (x : Word) : smallSigma1 x = x.rotateRight 17 ^^^ x.rotateRight 19 ^^^ x >>> 10 := by
  simp [smallSigma1, shr, rotr_eq_rotateRight]

end Sys2Proof.Machine
end

