-- ==== Sys2Proof/Laws/Padding.lean ====
section
/-! SUPPORT. The scratch blocks of FINAL, byte by byte and word by word (43_padding_framing rules R161 to R166). -/

namespace Sys2Proof.Machine

theorem getElem_words (blk : List Byte) (j : Nat) (hj : j < 16) : (words blk)[j] = wordAt blk j := by
  have h : ∀ i : Fin 16, (words blk)[i.val] = wordAt blk i := by
    intro i
    fin_cases i <;> rfl
  exact h ⟨j, hj⟩

/-- A block of bytes has the words of `v` when each of its sixteen words is `v`'s. -/
theorem words_ext (blk : List Byte) (v : Vector Word 16) (h : ∀ j (hj : j < 16), wordAt blk j = v[j]) : words blk = v :=
  Vector.ext fun j hj => (getElem_words blk j hj).trans (h j hj)

/-- Byte k of the words of a block is byte k of the block. -/
theorem byteOfWord_words (blk : List Byte) (k : Nat) (hk : k < 64) :
    byteOfWord ((words blk)[k / 4]'(by omega)) (k % 4) = blk.getD k 0 := by
  rw [getElem_words]
  obtain ⟨h0, h1, h2, h3⟩ := byteOfWord_bigEndian32 (blk.getD (4 * (k / 4)) 0) (blk.getD (4 * (k / 4) + 1) 0)
    (blk.getD (4 * (k / 4) + 2) 0) (blk.getD (4 * (k / 4) + 3) 0)
  have hm : k % 4 = 0 ∨ k % 4 = 1 ∨ k % 4 = 2 ∨ k % 4 = 3 := by omega
  rcases hm with h | h | h | h <;> rw [h]
  · exact h0.trans (congrArg (blk.getD · 0) (by omega))
  · exact h1.trans (congrArg (blk.getD · 0) (by omega))
  · exact h2.trans (congrArg (blk.getD · 0) (by omega))
  · exact h3.trans (congrArg (blk.getD · 0) (by omega))

@[simp] theorem length_scratch (n : Nat) (buf : Vector Word 16) (r : Nat) : (scratch n buf r).length = n := by
  simp [scratch]

@[simp] theorem length_lengthField (l : Count) : (lengthField l).length = 8 := by simp [lengthField]

theorem getD_scratch (n : Nat) (buf : Vector Word 16) (r k : Nat) (hk : k < n) :
    (scratch n buf r).getD k 0 = if k < r then tailByte buf k else if k = r then 0x80 else 0 := by
  rw [scratch, List.getD_eq_getElem?_getD, List.getElem?_map, List.getElem?_range hk]
  rfl

theorem getD_lengthField (l : Count) (m : Nat) (hm : m < 8) : (lengthField l).getD m 0 = byteOfCount (bitLength l) m := by
  rw [lengthField, List.getD_eq_getElem?_getD, List.getElem?_map, List.getElem?_range hm]
  rfl

theorem getD_append_of_lt {a b : List Byte} {k : Nat} (h : k < a.length) : (a ++ b).getD k 0 = a.getD k 0 := by
  simp [List.getD_eq_getElem?_getD, List.getElem?_append_left h]

theorem getD_append_of_ge {a b : List Byte} {k : Nat} (h : a.length ≤ k) :
    (a ++ b).getD k 0 = b.getD (k - a.length) 0 := by
  simp [List.getD_eq_getElem?_getD, List.getElem?_append_right h]

/-- Byte k of the first scratch block when the length field fits in it (R162, R163, R164). -/
theorem getD_firstBlock_of_lt (buf : Vector Word 16) (r : Nat) (l : Count) (k : Nat) (hr : r < 56) (hk : k < 64) :
    (firstBlock buf r l).getD k 0 =
      if k < r then tailByte buf k else if k = r then 0x80 else if k < 56 then 0
      else byteOfCount (bitLength l) (k - 56) := by
  rw [firstBlock, if_pos (show oneBlock r = true from decide_eq_true hr)]
  by_cases h : k < 56
  · rw [getD_append_of_lt (by rw [length_scratch]; exact h), getD_scratch _ _ _ _ h, if_pos h]
  · rw [getD_append_of_ge (by rw [length_scratch]; exact Nat.le_of_not_lt h), length_scratch,
      getD_lengthField _ _ (show k - 56 < 8 by omega), if_neg (by omega), if_neg (by omega), if_neg h]

/-- Byte k of the first scratch block when the length field does not fit (R162, R165). -/
theorem getD_firstBlock_of_ge (buf : Vector Word 16) (r : Nat) (l : Count) (k : Nat) (hr : 56 ≤ r) (hk : k < 64) :
    (firstBlock buf r l).getD k 0 = if k < r then tailByte buf k else if k = r then 0x80 else 0 := by
  rw [firstBlock, if_neg (by simp [oneBlock, Config.lengthAt]; omega), getD_scratch _ _ _ _ hk]

/-- The big-endian halves of a 64-bit number, from its bytes. -/
theorem bigEndian32_byteOfCount (c : Count) :
    bigEndian32 (byteOfCount c 0) (byteOfCount c 1) (byteOfCount c 2) (byteOfCount c 3) = c.extractLsb' 32 32 ∧
      bigEndian32 (byteOfCount c 4) (byteOfCount c 5) (byteOfCount c 6) (byteOfCount c 7) = c.extractLsb' 0 32 := by
  unfold bigEndian32 byteOfCount
  constructor <;>
    rw [BitVec.extractLsb'_append_extractLsb'_eq_extractLsb' (by rfl),
      BitVec.extractLsb'_append_extractLsb'_eq_extractLsb' (by rfl),
      BitVec.extractLsb'_append_extractLsb'_eq_extractLsb' (by rfl)]

/-- The first scratch block of an empty tail (R166). -/
theorem words_firstBlock_zero (buf : Vector Word 16) (l : Count) :
    words (firstBlock buf 0 l) =
      #v[0x80000000, 0, 0, 0, 0, 0, 0, 0, 0, 0, 0, 0, 0, 0,
        (bitLength l).extractLsb' 32 32, (bitLength l).extractLsb' 0 32] := by
  obtain ⟨hi, lo⟩ := bigEndian32_byteOfCount (bitLength l)
  have byte : ∀ k, k < 64 → (firstBlock buf 0 l).getD k 0 =
      if k = 0 then 0x80 else if k < 56 then 0 else byteOfCount (bitLength l) (k - 56) := fun k hk => by
    rw [getD_firstBlock_of_lt buf 0 l k (by omega) hk, if_neg (Nat.not_lt_zero k)]
  have zeros : ∀ (x y : Word) (j : Nat) (hj : j < 16), 1 ≤ j → j < 14 →
      (#v[0x80000000, 0, 0, 0, 0, 0, 0, 0, 0, 0, 0, 0, 0, 0, x, y] : Vector Word 16)[j] = 0 := by
    intro x y j _ h1 h14
    interval_cases j <;> rfl
  refine words_ext _ _ fun j hj => ?_
  rw [wordAt, byte _ (by omega), byte _ (by omega), byte _ (by omega), byte _ (by omega)]
  by_cases h14 : j < 14
  · rw [if_neg (show 4 * j + 1 ≠ 0 by omega), if_neg (show 4 * j + 2 ≠ 0 by omega), if_neg (show 4 * j + 3 ≠ 0 by omega),
      if_pos (show 4 * j < 56 by omega), if_pos (show 4 * j + 1 < 56 by omega), if_pos (show 4 * j + 2 < 56 by omega),
      if_pos (show 4 * j + 3 < 56 by omega)]
    by_cases h0 : j = 0
    · subst h0; rfl
    · rw [if_neg (show 4 * j ≠ 0 by omega), zeros _ _ j hj (by omega) h14]
      rfl
  · have h : j = 14 ∨ j = 15 := by omega
    rcases h with rfl | rfl
    · exact hi
    · exact lo

/-- Byte k of the second scratch block (R165). -/
theorem getD_secondBlock (l : Count) (k : Nat) (hk : k < 64) :
    (secondBlock l).getD k 0 = if k < 56 then 0 else byteOfCount (bitLength l) (k - 56) := by
  rw [secondBlock]
  by_cases h : k < 56
  · rw [getD_append_of_lt (by rw [List.length_replicate]; exact h), if_pos h, List.getD_eq_getElem?_getD,
      List.getElem?_replicate, if_pos h]
    rfl
  · rw [getD_append_of_ge (by rw [List.length_replicate]; exact Nat.le_of_not_lt h), List.length_replicate,
      getD_lengthField _ _ (show k - 56 < 8 by omega), if_neg h]

end Sys2Proof.Machine
end

