-- ==== Sys2Proof/Laws/PerInstr.lean ====
section
/-! SUPPORT. The per-instruction family EncodeFields: what the word of a command holds in each field (30_encoding rules R80,
R82), whatever its argument. -/

namespace Sys2Proof.Laws.EncodeFields

/-- The fields of the word of `i` are its OPCODE, its ARG and RSV = 0. -/
def Statement (i : Instr) : Prop :=
  opcodeField (encode i) = opcode i ∧ argField (encode i) = argOf i ∧ rsvField (encode i) = 0

theorem init : Statement .init :=
  ⟨opcodeField_fields _ _ _, argField_fields _ _ _, rsvField_fields _ _ _⟩

theorem compress : Statement .compress :=
  ⟨opcodeField_fields _ _ _, argField_fields _ _ _, rsvField_fields _ _ _⟩

theorem block : Statement .block :=
  ⟨opcodeField_fields _ _ _, argField_fields _ _ _, rsvField_fields _ _ _⟩

theorem final (r : Arg) : Statement (.final r) :=
  ⟨opcodeField_fields _ _ _, argField_fields _ _ _, rsvField_fields _ _ _⟩

theorem rotr (n : Arg) : Statement (.rotr n) :=
  ⟨opcodeField_fields _ _ _, argField_fields _ _ _, rsvField_fields _ _ _⟩

theorem shr (n : Arg) : Statement (.shr n) :=
  ⟨opcodeField_fields _ _ _, argField_fields _ _ _, rsvField_fields _ _ _⟩

theorem ch : Statement .ch :=
  ⟨opcodeField_fields _ _ _, argField_fields _ _ _, rsvField_fields _ _ _⟩

theorem maj : Statement .maj :=
  ⟨opcodeField_fields _ _ _, argField_fields _ _ _, rsvField_fields _ _ _⟩

theorem bsig0 : Statement .bsig0 :=
  ⟨opcodeField_fields _ _ _, argField_fields _ _ _, rsvField_fields _ _ _⟩

theorem bsig1 : Statement .bsig1 :=
  ⟨opcodeField_fields _ _ _, argField_fields _ _ _, rsvField_fields _ _ _⟩

theorem ssig0 : Statement .ssig0 :=
  ⟨opcodeField_fields _ _ _, argField_fields _ _ _, rsvField_fields _ _ _⟩

theorem ssig1 : Statement .ssig1 :=
  ⟨opcodeField_fields _ _ _, argField_fields _ _ _, rsvField_fields _ _ _⟩

theorem schedw (i : Arg) : Statement (.schedw i) :=
  ⟨opcodeField_fields _ _ _, argField_fields _ _ _, rsvField_fields _ _ _⟩

end Sys2Proof.Laws.EncodeFields
end

