-- ==== Sys2Proof/Laws/Port.lean ====
section
/-! SUPPORT. The address map range by range, and what a port write and a step can do (20_memory rules R52 to R56). -/

namespace Sys2Proof.Machine

/-! ### The address map -/

@[simp] theorem addressMap_h (i : Fin 8) : addressMap (BitVec.ofNat 7 (0x08 + i)) = .h i := by revert i; decide

@[simp] theorem addressMap_buf (j : Fin 16) : addressMap (BitVec.ofNat 7 (0x10 + j)) = .buf j := by revert j; decide

@[simp] theorem addressMap_k (i : Fin 64) : addressMap (BitVec.ofNat 7 (0x40 + i)) = .k i := by revert i; decide

/-- The addresses of a register. -/
def isAddressOf (r : PortReg) (a : PortAddr) : Bool :=
  match r with
  | .id => a = 0x00
  | .cmd => a = 0x01
  | .status => a = 0x02
  | .cfg => a = 0x03
  | .lenLo => a = 0x04
  | .lenHi => a = 0x05
  | .h i => a.toNat = 0x08 + i
  | .buf j => a.toNat = 0x10 + j
  | .opx => a = 0x20
  | .opy => a = 0x21
  | .opz => a = 0x22
  | .res => a = 0x23
  | .k i => a.toNat = 0x40 + i
  | .reserved => a = 0x06 ∨ a = 0x07 ∨ (0x24 ≤ a.toNat ∧ a.toNat ≤ 0x3F)

/-- The map read backwards: an address is one of the addresses of the register it names. -/
theorem isAddressOf_addressMap (a : PortAddr) : isAddressOf (addressMap a) a = true := by revert a; decide

/-! ### Writes and events -/

/-- A write of a register other than CMD answers this state. -/
def writtenState (r : PortReg) (v : Word) (s : State) : State :=
  match r with
  | .cmd => s
  | .status => if clearsError v then clearError s else s
  | .cfg => setBswap (v.getLsbD 0) s
  | .lenLo => setDone false (setLenLo v s)
  | .lenHi => setDone false (setLenHi v s)
  | .h i => setDone false (setH i (windowData s v) s)
  | .buf j => setBuf j (windowData s v) s
  | .opx => setOpx v s
  | .opy => setOpy v s
  | .opz => setOpz v s
  | .id => raiseError .badAccess s
  | .res => raiseError .badAccess s
  | .k _ => raiseError .badAccess s
  | .reserved => raiseError .badAccess s

theorem writeReg_of_ne_cmd (r : PortReg) (v : Word) (s : State) (hr : r ≠ .cmd) :
    writeReg r v s = .next (writtenState r v s) := by
  cases r <;> first | rfl | exact absurd rfl hr

/-- A word written to CMD answers its command's next state, or the state with ILLEGAL_CMD raised. -/
theorem runCommand_cases (w : Word) (s : State) :
    (∃ i t, decode w = .ok i ∧ runCommand w s = .next t ∧ CommandShape s i t) ∨
      ∃ e, decode w = .error e ∧ runCommand w s = .next (raiseError .illegalCmd s) := by
  cases h : decode w with
  | ok i =>
    obtain ⟨t, ht, hs⟩ := exec_shape i s
    exact .inl ⟨i, t, rfl, by simpa [runCommand, h] using ht, hs⟩
  | error e => exact .inr ⟨e, rfl, by simp [runCommand, h]⟩

/-- The address of CMD is the only one that the map sends to CMD. -/
theorem addressMap_eq_cmd (a : PortAddr) : addressMap a = .cmd ↔ a = 0x01 := by revert a; decide

/-- A write to CMD runs the word. -/
theorem portWrite_cmd (w : Word) (s : State) : portWrite 0x01 w s = runCommand w s := rfl

/-- A write to any other address. -/
theorem portWrite_of_ne_cmd (a : PortAddr) (v : Word) (s : State) (ha : a ≠ 0x01) :
    portWrite a v s = .next (writtenState (addressMap a) v s) :=
  writeReg_of_ne_cmd _ v s fun h => ha ((addressMap_eq_cmd a).1 h)

/-- Every port write answers a next state. -/
theorem portWrite_completes (a : PortAddr) (v : Word) (s : State) : ∃ t, portWrite a v s = .next t := by
  by_cases ha : a = 0x01
  · subst ha
    rcases runCommand_cases v s with ⟨_, t, _, ht, _⟩ | ⟨_, _, ht⟩
    · exact ⟨t, ht⟩
    · exact ⟨_, ht⟩
  · exact ⟨_, portWrite_of_ne_cmd a v s ha⟩

/-- What a port event can do. -/
theorem portEvent_cases {e : PortEvent} {s t : State} (h : portEvent e s = .next t) :
    (∃ a, e = .transact (.read a) ∧ t = setRdata (portRead a s) s) ∨
    (∃ a v, e = .transact (.write a v) ∧ a ≠ 0x01 ∧ t = writtenState (addressMap a) v s) ∨
    (∃ w i, e = .transact (.write 0x01 w) ∧ decode w = .ok i ∧ CommandShape s i t) ∨
    (∃ w r, e = .transact (.write 0x01 w) ∧ decode w = .error r ∧ t = raiseError .illegalCmd s) ∨
    ∃ x, e = .reset x ∧ t = resetMachine s := by
  match e with
  | .reset x => cases h; exact .inr (.inr (.inr (.inr ⟨x, rfl, rfl⟩)))
  | .transact (.read a) => cases h; exact .inl ⟨a, rfl, rfl⟩
  | .transact (.write a v) =>
    by_cases ha : a = 0x01
    · subst ha
      rw [portEvent, portWrite_cmd] at h
      rcases runCommand_cases v s with ⟨i, u, hd, hu, hs⟩ | ⟨r, hd, hu⟩
      · cases hu.symm.trans h
        exact .inr (.inr (.inl ⟨v, i, rfl, hd, hs⟩))
      · cases hu.symm.trans h
        exact .inr (.inr (.inr (.inl ⟨v, r, rfl, hd, rfl⟩)))
    · rw [portEvent, portWrite_of_ne_cmd a v s ha] at h
      cases h
      exact .inr (.inl ⟨a, v, rfl, ha, rfl⟩)

/-- A step takes the oldest event, or does nothing. -/
theorem step_cons (s : State) (e : PortEvent) (rest : List PortEvent) (h : s.pending = e :: rest) :
    step s = portEvent e { s with pending := rest } := by
  simp [step, takeEvent, h]

theorem step_nil (s : State) (h : s.pending = []) : step s = .next s := by
  simp [step, takeEvent, h]

end Sys2Proof.Machine
end

