-- ==== Sys2Proof/Laws/Run.lean ====
section
/-! SUPPORT. Runs of several port events, and the pseudo-instruction LOADBUF (30_encoding rule R88). -/

namespace Sys2Proof.Machine

/-- A run of `k + l` steps whose first `k` complete is a run of `l` from where they end. -/
theorem run_add (M : Host.Core) (k l : Nat) (s u : M.State) (h : M.run k s = .next u) :
    M.run (k + l) s = M.run l u := by
  induction k generalizing s with
  | zero => cases h; simp
  | succ k ih =>
    rw [Nat.add_right_comm, Host.Core.run]
    rw [Host.Core.run] at h
    split at h
    · exact ih _ h
    · cases h
    · cases h

/-- The events `es` take the registers of `s` to those of `t`, whatever the host asks for after them. -/
def Takes (es : List PortEvent) (s t : State) : Prop :=
  ∀ rest, core.run es.length { s with pending := es ++ rest } = .next { t with pending := rest }

theorem takes_nil (s : State) : Takes [] s s := fun _ => rfl

theorem takes_cons {e : PortEvent} {es : List PortEvent} {s u t : State}
    (he : ∀ rest, portEvent e { s with pending := rest } = .next { u with pending := rest }) (h : Takes es u t) :
    Takes (e :: es) s t := by
  intro rest
  have hs : core.step { s with pending := e :: es ++ rest } = .next { u with pending := es ++ rest } := he (es ++ rest)
  simp only [List.length_cons, Host.Core.run]
  rw [hs]
  exact h rest

theorem takes_append {xs ys : List PortEvent} {s u t : State} (hx : Takes xs s u) (hy : Takes ys u t) :
    Takes (xs ++ ys) s t := by
  intro rest
  rw [List.length_append, List.append_assoc, run_add core _ _ _ _ (hx (ys ++ rest))]
  exact hy rest

/-- One write of LOADBUF with BSWAP = 0. -/
theorem takes_wr_buf (j : Fin 16) (v : Word) (s : State) (h : s.bswap = false) :
    Takes [wr (BitVec.ofNat 7 (0x10 + j)) v] s { s with buf := s.buf.set j v } := by
  refine takes_cons (fun rest => ?_) (takes_nil _)
  simp [wr, portEvent, portWrite, writeReg, windowData, setBuf, h]

/-- LOADBUF with BSWAP = 0 leaves BUF holding its words and changes nothing else. -/
theorem takes_loadBuf (b : Vector Word 16) (s : State) (h : s.bswap = false) :
    Takes (loadBuf b) s { s with buf := b } := by
  have step16 : ∀ n, n ≤ 16 → ∃ d : Vector Word 16, (∀ k (hk : k < 16), k < n → d[k]'hk = b[k]'hk) ∧
      Takes ((List.range n).map (fun j => wr (BitVec.ofNat 7 (0x10 + j)) (b.toList.getD j 0))) s
        { s with buf := d } := by
    intro n
    induction n with
    | zero => intro _; exact ⟨s.buf, by simp, takes_nil s⟩
    | succ n ih =>
      intro hn
      obtain ⟨d, hc, ht⟩ := ih (by omega)
      refine ⟨d.set n (b[n]'(by omega)), ?_, ?_⟩
      · intro k hk hkn
        rcases Nat.lt_succ_iff_lt_or_eq.1 hkn with hlt | rfl
        · rw [Vector.getElem_set_ne _ _ (by omega)]; exact hc k hk hlt
        · exact Vector.getElem_set_self _
      · rw [List.range_succ, List.map_append]
        have hw := takes_wr_buf ⟨n, by omega⟩ (b[n]'(by omega)) { s with buf := d } h
        refine takes_append ht ?_
        have hb : b.toList.getD n 0 = b[n]'(by omega) := by simp [List.getD_eq_getElem?_getD, show n < 16 by omega]
        rw [List.map_singleton, hb]
        exact hw
  obtain ⟨d, hc, ht⟩ := step16 16 (by omega)
  have hcb : d = b := Vector.ext fun k hk => hc k hk hk
  rw [hcb] at ht
  exact ht

/-- A command word, as the host's event, runs its command. -/
theorem takes_command (i : Instr) (s t : State) (hd : decode (encode i) = .ok i)
    (h : ∀ rest, exec i { s with pending := rest } = .next { t with pending := rest }) : Takes [command i] s t := by
  refine takes_cons (fun rest => ?_) (takes_nil _)
  have hc : addressMap cmdAddr = .cmd := rfl
  simp [command, wr, portEvent, portWrite, writeReg, hc, runCommand, hd, h]

/-- A read answers its value and changes no register. -/
theorem takes_rd (a : PortAddr) (s : State) : Takes [rd a] s { s with rdata := portRead a s } := by
  refine takes_cons (fun rest => ?_) (takes_nil _)
  have hr : portRead a { s with pending := rest } = portRead a s := by
    unfold portRead readReg
    cases addressMap a <;> rfl
  simp [rd, portEvent, setRdata, hr]

end Sys2Proof.Machine
end

