-- ==== Sys2Proof/Laws/Schedule.lean ====
section
/-! SUPPORT. The message schedule: its length, and that extending it keeps the words it has (41_message_schedule rules R130
to R132). -/

namespace Sys2Proof.Machine

@[simp] theorem length_extendSchedule (n : Nat) (w : List Word) : (extendSchedule n w).length = w.length + n := by
  induction n generalizing w with
  | zero => simp [extendSchedule]
  | succ n ih => simp [extendSchedule, ih]; omega

@[simp] theorem length_schedule (b : Vector Word 16) : (schedule b).length = 64 := by
  rw [schedule, length_extendSchedule]; simp [Config.rounds, Config.blockWords]

@[simp] theorem length_kTable : Rom.kTable.length = 64 := by decide

theorem getD_extendSchedule_of_lt (n : Nat) (w : List Word) (i : Nat) (hi : i < w.length) :
    (extendSchedule n w).getD i 0 = w.getD i 0 := by
  induction n generalizing w with
  | zero => rfl
  | succ n ih =>
    rw [extendSchedule, ih _ (by simp; omega)]
    simp [List.getD_eq_getElem?_getD, List.getElem?_append_left hi]

/-- Word i of an extension is the recurrence over the extension's own earlier words. -/
theorem getD_extendSchedule_of_ge (n : Nat) (w : List Word) (i : Nat) (h16 : 16 ≤ w.length) (hlo : w.length ≤ i)
    (hhi : i < w.length + n) :
    (extendSchedule n w).getD i 0 =
      smallSigma1 ((extendSchedule n w).getD (i - 2) 0) + (extendSchedule n w).getD (i - 7) 0 +
        smallSigma0 ((extendSchedule n w).getD (i - 15) 0) + (extendSchedule n w).getD (i - 16) 0 := by
  induction n generalizing w with
  | zero => omega
  | succ n ih =>
    rw [extendSchedule]
    rcases Nat.eq_or_lt_of_le hlo with rfl | hlt
    · have keep : ∀ j, 1 ≤ j → j ≤ 16 →
          (extendSchedule n (w ++ [nextWord w])).getD (w.length - j) 0 = w.getD (w.length - j) 0 := by
        intro j h1 hj
        rw [getD_extendSchedule_of_lt _ _ _ (by simp)]
        rw [List.getD_eq_getElem?_getD, List.getElem?_append_left (by omega), List.getD_eq_getElem?_getD]
      rw [keep 2 (by omega) (by omega), keep 7 (by omega) (by omega), keep 15 (by omega) (by omega),
        keep 16 (by omega) (by omega), getD_extendSchedule_of_lt _ _ _ (by simp)]
      simp [List.getD_eq_getElem?_getD, nextWord]
    · exact ih _ (by simp; omega) (by simp; omega) (by simp; omega)

theorem getD_schedule_of_lt (b : Vector Word 16) (i : Nat) (hi : i < 16) : (schedule b).getD i 0 = b[i] := by
  rw [schedule, getD_extendSchedule_of_lt _ _ _ (by simpa using hi)]
  simp [List.getD_eq_getElem?_getD, hi]

theorem getD_schedule_of_ge (b : Vector Word 16) (i : Nat) (hlo : 16 ≤ i) (hhi : i < 64) :
    (schedule b).getD i 0 =
      smallSigma1 ((schedule b).getD (i - 2) 0) + (schedule b).getD (i - 7) 0 +
        smallSigma0 ((schedule b).getD (i - 15) 0) + (schedule b).getD (i - 16) 0 :=
  getD_extendSchedule_of_ge _ _ _ (by simp) (by simpa using hlo) (by simpa [Config.rounds, Config.blockWords] using hhi)

end Sys2Proof.Machine
end

