-- ==== Sys2Proof/Tests/Slice0.lean ====
section
/-! SUPPORT. Tests: command words written out bit by bit from 30_encoding rules R80 to R82, values of spec/95_test_vectors,
the ill-formed commands, and a witness for the hypotheses of each statement. -/

namespace Sys2Proof.Tests

open Sys2Proof.Machine

/-! ### Small states -/

/-- After reset, with the operand registers written. -/
def ops (x y z : Word) : State := { State.reset with opx := x, opy := y, opz := z }

/-- The padded block of the message "abc" (95_test_vectors V2). -/
def abcBlock : Vector Word 16 := #v[0x61626380, 0, 0, 0, 0, 0, 0, 0, 0, 0, 0, 0, 0, 0, 0, 0x18]

/-- The block whose words are all `w`. -/
def filled (w : Word) : Vector Word 16 := #v[w, w, w, w, w, w, w, w, w, w, w, w, w, w, w, w]

/-- What a completed outcome satisfies. -/
def after (o : Host.Outcome State Fault Refusal) (p : State → Bool) : Bool :=
  match o with
  | .next t => p t
  | .fault _ => false
  | .refused _ => false

/-- The port writes of a list, in order. -/
def writes : List (PortAddr × Word) → State → Host.Outcome State Fault Refusal
  | [], s => .next s
  | (a, v) :: rest, s =>
    match portWrite a v s with
    | .next t => writes rest t
    | .fault f => .fault f
    | .refused r => .refused r

/-! ### WellFormed: a term that each check refuses, and the widest that it takes -/

theorem test_wf_rotr_32 : (Instr.rotr 32).wf = false ∧ (Instr.rotr 31).wf = true := by decide
theorem test_wf_shr_32 : (Instr.shr 32).wf = false ∧ (Instr.shr 31).wf = true := by decide
theorem test_wf_final_63 : (Instr.final 63).wf = true ∧ (Instr.schedw 63).wf = true := by decide

/-! ### Decoding, one word of each row: RSV (18 bits), ARG (6 bits), OPCODE (8 bits) -/

theorem test_decode_init : decode 0b000000000000000000_000000_00000001 = .ok .init := by decide
theorem test_decode_compress : decode 0b000000000000000000_000000_00000010 = .ok .compress := by decide
theorem test_decode_block : decode 0b000000000000000000_000000_00000011 = .ok .block := by decide
theorem test_decode_final : decode 0b000000000000000000_111000_00000100 = .ok (.final 56) := by decide
theorem test_decode_rotr : decode 0b000000000000000000_011101_00010000 = .ok (.rotr 29) := by decide
theorem test_decode_shr : decode 0b000000000000000000_000011_00010001 = .ok (.shr 3) := by decide
theorem test_decode_ch : decode 0b000000000000000000_000000_00010010 = .ok .ch := by decide
theorem test_decode_maj : decode 0b000000000000000000_000000_00010011 = .ok .maj := by decide
theorem test_decode_bsig0 : decode 0b000000000000000000_000000_00010100 = .ok .bsig0 := by decide
theorem test_decode_bsig1 : decode 0b000000000000000000_000000_00010101 = .ok .bsig1 := by decide
theorem test_decode_ssig0 : decode 0b000000000000000000_000000_00010110 = .ok .ssig0 := by decide
theorem test_decode_ssig1 : decode 0b000000000000000000_000000_00010111 = .ok .ssig1 := by decide
theorem test_decode_schedw : decode 0b000000000000000000_110001_00011000 = .ok (.schedw 49) := by decide

/-- The illegal words of 95_test_vectors section 7. -/
theorem test_decode_illegal :
    ([0x00000000, 0x00000005, 0x0000000f, 0x00000019, 0x000000ff, 0x00000120] : List Word).all
        (fun w => decode w == .error .reservedOpcode) ∧
      ([0x00004004, 0x80000002, 0x00004018] : List Word).all (fun w => decode w == .error .reservedBits) ∧
      ([0x00000101, 0x00000112] : List Word).all (fun w => decode w == .error .argNotZero) ∧
      ([0x00002010, 0x00002011] : List Word).all (fun w => decode w == .error .argTooLarge) := by decide

theorem test_decodeTableWord : decodeTableWord 32 0x00000710 = some (.rotr 7) ∧ decodeTableWord 32 0 = none := by decide

/-- From reset, the next step runs the table's word. -/
theorem test_withFetchWord :
    step (State.reset.withFetchWord 32 0x00000f18) = exec (.schedw 15) State.reset := rfl

/-! ### Mixing functions (95_test_vectors section 3) -/

theorem test_rotr_7 :
    after (exec (.rotr 7) (ops 0x12345678 0 0)) (fun t => t == { ops 0x12345678 0 0 with res := 0xf02468ac }) = true := by
  decide
theorem test_rotr_0 : after (exec (.rotr 0) (ops 0x12345678 0 0)) (fun t => t.res == 0x12345678) = true := by decide
theorem test_shr_3 :
    after (exec (.shr 3) (ops 0x12345678 0 0)) (fun t => t == { ops 0x12345678 0 0 with res := 0x02468acf }) = true := by
  decide
theorem test_shr_31 : after (exec (.shr 31) (ops 0x80000000 0 0)) (fun t => t.res == 1) = true := by decide
theorem test_ch : after (exec .ch (ops 0x510e527f 0x9b05688c 0x1f83d9ab)) (fun t => t.res == 0x1f85c98c) = true := by
  decide
theorem test_maj : after (exec .maj (ops 0x6a09e667 0xbb67ae85 0x3c6ef372)) (fun t => t.res == 0x3a6fe667) = true := by
  decide
theorem test_bsig0 : after (exec .bsig0 (ops 0x6a09e667 0 0)) (fun t => t.res == 0xce20b47e) = true := by decide
theorem test_bsig1 : after (exec .bsig1 (ops 0x510e527f 0 0)) (fun t => t.res == 0x3587272b) = true := by decide
theorem test_ssig0 : after (exec .ssig0 (ops 0x12345678 0 0)) (fun t => t.res == 0xe7fce6ee) = true := by decide
theorem test_ssig0_ones : after (exec .ssig0 (ops 0xffffffff 0 0)) (fun t => t.res == 0x1fffffff) = true := by decide
theorem test_ssig1 : after (exec .ssig1 (ops 0x12345678 0 0)) (fun t => t.res == 0xa1f78649) = true := by decide
theorem test_ssig1_ones : after (exec .ssig1 (ops 0xffffffff 0 0)) (fun t => t.res == 0x003fffff) = true := by decide

/-! ### Message schedule (95_test_vectors section 4) -/

theorem test_schedw_17 :
    after (exec (.schedw 17) { State.reset with buf := abcBlock }) (fun t => t.res == 0x000f0000) = true := by
  decide +kernel
theorem test_schedw_63_ones :
    after (exec (.schedw 63) { State.reset with buf := filled 0xffffffff }) (fun t => t.res == 0x4bceaf09) = true := by
  decide +kernel

/-! ### Compression (95_test_vectors section 5) -/

/-- Section 5.1: round 0 of the "abc" block. -/
theorem test_round_0 :
    compressRound 0x428a2f98 0x61626380 (loadWorking Rom.iv) =
      ⟨0x5d6aebcd, 0x6a09e667, 0xbb67ae85, 0x3c6ef372, 0xfa2a4622, 0x510e527f, 0x9b05688c, 0x1f83d9ab⟩ := by decide

/-- K6. -/
theorem test_init :
    after (exec .init { State.reset with h := #v[1, 2, 3, 4, 5, 6, 7, 8], len := 9, done := true, res := 7, err := true })
      (fun t => t == { State.reset with res := 7, err := true }) = true := by decide

/-- K3, with LEN kept and DONE cleared. -/
theorem test_compress_zero :
    after (exec .compress { State.reset with h := #v[0, 0, 0, 0, 0, 0, 0, 0], len := 5, done := true })
      (fun t => t.h == #v[0x7ca51614, 0x425c3ba8, 0xce54dd2f, 0xc2020ae7, 0xb6e574d1, 0x98136d0f, 0xae7e26cc, 0xbf0be7a6]
        && t.len == 5 && !t.done) = true := by decide +kernel

/-- K1, on the sliding-window datapath with other internal state left in it. -/
theorem test_iterated_abc :
    compressIterated ⟨9, ⟨1, 2, 3, 4, 5, 6, 7, 8⟩, filled 0xffffffff⟩ Rom.iv abcBlock =
      #v[0xba7816bf, 0x8f01cfea, 0x414140de, 0x5dae2223, 0xb00361a3, 0x96177a9c, 0xb410ff61, 0xf20015ad] := by
  decide +kernel

/-- K4. -/
theorem test_block_a64 :
    after (exec .block { State.reset with buf := filled 0x61616161 })
      (fun t => t.h == #v[0xdf5bb81c, 0xe81e0626, 0xfb45a894, 0x4fd40f31, 0xb25e6816, 0xd6d499c1, 0xab904929, 0x00635e66]
        && t.len == 64 && !t.done) = true := by decide +kernel

/-- K5. -/
theorem test_block_len_wraps :
    after (exec .block { State.reset with len := 0xFFFFFFFFFFFFFFC0 }) (fun t => t.len == 0) = true := by decide +kernel

/-! ### Padding (95_test_vectors section 2) -/

/-- F1: the bytes beyond the tail are ignored and kept. -/
theorem test_final_3 :
    after (exec (.final 3) { State.reset with buf := (filled 0xffffffff).set 0 0x616263ff })
      (fun t => t.h == #v[0xba7816bf, 0x8f01cfea, 0x414140de, 0x5dae2223, 0xb00361a3, 0x96177a9c, 0xb410ff61, 0xf20015ad]
        && t.len == 3 && t.done && t.buf[0] == 0x616263ff) = true := by decide +kernel

/-- V14: the smallest two-block tail. -/
theorem test_final_56 :
    after (exec (.final 56) { State.reset with buf := filled 0x61616161 })
      (fun t => t.h == #v[0xb35439a4, 0xac6f0948, 0xb6d6f9e3, 0xc6af0f5f, 0x590ce20f, 0x1bde7090, 0xef797068, 0x6ec6738a]
        && t.len == 56 && t.done) = true := by decide +kernel

/-- The whole-message function of the statements gives V1 and V2. -/
theorem test_oneCallHash_empty :
    Spec.oneCallHash [] =
      #v[0xe3b0c442, 0x98fc1c14, 0x9afbf4c8, 0x996fb924, 0x27ae41e4, 0x649b934c, 0xa495991b, 0x7852b855] := by
  decide +kernel
theorem test_oneCallHash_abc :
    Spec.oneCallHash [0x61, 0x62, 0x63] =
      #v[0xba7816bf, 0x8f01cfea, 0x414140de, 0x5dae2223, 0xb00361a3, 0x96177a9c, 0xb410ff61, 0xf20015ad] := by
  decide +kernel

/-! ### Port (95_test_vectors sections 6 to 8) -/

/-- M1 to M3. -/
theorem test_reads :
    portRead 0x00 State.reset = 0x53323536 ∧ portRead 0x01 State.reset = 0 ∧ portRead 0x06 State.reset = 0 ∧
      portRead 0x30 State.reset = 0 ∧ portRead 0x40 State.reset = 0x428a2f98 ∧
      portRead 0x7F State.reset = 0xc67178f2 := by decide

/-- The corners of the columns of R100's table stand at their addresses. -/
theorem test_round_constants :
    portRead 0x4F State.reset = 0xc19bf174 ∧ portRead 0x50 State.reset = 0xe49b69c1 ∧
      portRead 0x5F State.reset = 0x14292967 ∧ portRead 0x60 State.reset = 0x27b70a85 ∧
      portRead 0x6F State.reset = 0x106aa070 ∧ portRead 0x70 State.reset = 0x19a4c116 := by decide

/-- M5: the reserved bits of CFG. -/
theorem test_cfg : after (portWrite 0x03 0xffffffff State.reset)
    (fun t => portRead 0x03 t == 1 && portRead 0x02 t == 0) = true := by decide

/-- M6, M7: the byte swap on write and on read. -/
theorem test_bswap : after (writes [(0x03, 1), (0x10, 0x00636261)] State.reset)
    (fun t => t.buf[0] == 0x61626300 && portRead 0x10 t == 0x00636261 &&
      portRead 0x10 { t with bswap := false } == 0x61626300) = true := by decide

/-- M8, M9: a write of LEN or H clears DONE. -/
theorem test_done_cleared :
    (after (portWrite 0x04 0 { State.reset with done := true }) (fun t => portRead 0x02 t == 0) &&
      after (portWrite 0x08 0x6a09e667 { State.reset with done := true }) (fun t => t == State.reset)) = true := by decide

/-- M11, M13, M14 and the sticky first error. -/
theorem test_errors :
    after (writes [(0x06, 1), (0x02, 0xfffffffd)] State.reset) (fun t => portRead 0x02 t == 0x22) = true ∧
      after (writes [(0x06, 1), (0x01, 0)] State.reset) (fun t => portRead 0x02 t == 0x22) = true ∧
      after (writes [(0x01, 0), (0x23, 7)] State.reset) (fun t => portRead 0x02 t == 0x12) = true ∧
      after (writes [(0x06, 1), (0x02, 2)] State.reset) (fun t => portRead 0x02 t == 0) = true := by decide

/-- M15: LEN is two words. -/
theorem test_len_halves : after (writes [(0x04, 0xffffffc0), (0x05, 0xffffffff)] State.reset)
    (fun t => t.len == 0xFFFFFFFFFFFFFFC0 && portRead 0x04 t == 0xffffffc0) = true := by decide

/-- A reset in the middle of a FINAL leaves no trace of it (70_reset_and_hazards rule R201). -/
theorem test_reset_abandons :
    after (step { State.reset with len := 7, res := 3, pending := [.reset (some (.write 0x01 0x00000304))] })
      (fun t => t == State.reset) = true := by decide

/-! ### Witnesses: what meets the hypotheses of each statement -/

theorem test_witness_encodeInvertsDecode :
    decode 0x00003f04 = .ok (.final 63) ∧ decode 0x00001f10 = .ok (.rotr 31) ∧ decode 0x00000001 = .ok .init := by decide

theorem test_witness_decodeInvertsEncode :
    (∃ i : Instr, i.wf = true ∧ decode (encode i) = .ok i) ∧
      ∃ i : Instr, i.wf = false ∧ decode (encode i) = .error .argTooLarge := by
  exact ⟨⟨.rotr 31, by decide⟩, ⟨.rotr 32, by decide⟩⟩

/-- A word that a row selects, and words that no row selects. -/
theorem test_witness_commandWriteRunsItsRow :
    (∃ row ∈ opcodeMap, (0x00000710 : Word) &&& row.mask = row.pattern) ∧
      ∀ row ∈ opcodeMap, (0x00002010 : Word) &&& row.mask ≠ row.pattern := by decide

/-- Illegal words of each kind, at the ends of each range. -/
theorem test_witness_illegalWord :
    ∀ w ∈ ([0x00, 0x05, 0x0F, 0x19, 0xFF, 0x4001, 0x80000018, 0x101, 0x3F17, 0x2010, 0x3F11] : List Word),
      Spec.IllegalWord w := by
  simp [Spec.IllegalWord]

/-- Their legal neighbours are not illegal. -/
theorem test_witness_legalWord :
    ∀ w ∈ ([0x01, 0x3F04, 0x1F10, 0x1F11, 0x17, 0x3F18] : List Word), ¬ Spec.IllegalWord w := by
  simp [Spec.IllegalWord]

theorem test_witness_stepRunsDecodedCommand :
    ∃ (s : State) (rest : List PortEvent), s.pending = .transact (.write 0x01 0x00000710) :: rest ∧
      decode 0x00000710 = .ok (.rotr 7) :=
  ⟨{ State.reset with pending := [.transact (.write 0x01 0x00000710)] }, [], by decide⟩

theorem test_witness_stepTakesOldestEvent :
    (∃ s : State, s.pending = .transact (.read 0x23) :: []) ∧
      (∃ s : State, s.pending = .transact (.write 0x10 5) :: [.transact (.read 0x10)]) ∧
      ∃ s : State, s.pending = [] :=
  ⟨⟨{ State.reset with pending := [.transact (.read 0x23)] }, rfl⟩,
    ⟨{ State.reset with pending := [.transact (.write 0x10 5), .transact (.read 0x10)] }, rfl⟩, ⟨State.reset, rfl⟩⟩

theorem test_witness_resetEvent :
    (∃ s : State, s.pending = .reset none :: []) ∧
      ∃ s : State, s.pending = .reset (some (.write 0x01 0x00003804)) :: [.transact (.read 0x08)] :=
  ⟨⟨{ State.reset with pending := [.reset none] }, rfl⟩,
    ⟨{ State.reset with pending := [.reset (some (.write 0x01 0x00003804)), .transact (.read 0x08)] }, rfl⟩⟩

/-- The reserved addresses at the ends of their ranges. -/
theorem test_witness_portReadFollowsTheMap :
    ∀ a ∈ ([0x06, 0x07, 0x24, 0x3F] : List PortAddr),
      (a = 0x06 ∨ a = 0x07 ∨ (0x24 ≤ a.toNat ∧ a.toNat ≤ 0x3F)) ∧ portRead a State.reset = 0 := by decide

/-- The addresses that cannot be written, at the ends of their ranges, and writable neighbours. -/
theorem test_witness_notWritable :
    (∀ a ∈ ([0x00, 0x06, 0x07, 0x23, 0x24, 0x3F, 0x40, 0x7F] : List PortAddr), Spec.NotWritable a) ∧
      ∀ a ∈ ([0x01, 0x02, 0x03, 0x04, 0x05, 0x08, 0x0F, 0x10, 0x1F, 0x20, 0x21, 0x22] : List PortAddr),
        ¬ Spec.NotWritable a := by
  unfold Spec.NotWritable; decide

theorem test_witness_portWriteFollowsTheMap :
    decode 0x00000001 = .ok .init ∧ decode 0x00000000 = .error .reservedOpcode := by decide

/-- The ends of the H and BUF windows, with their words. -/
theorem test_witness_windowWord :
    (∀ a ∈ ([0x08, 0x0F, 0x10, 0x1F] : List PortAddr), Spec.InSwappedWindow a) ∧
      (∀ a ∈ ([0x07, 0x20] : List PortAddr), ¬ Spec.InSwappedWindow a) ∧
      (0x0F : PortAddr).toNat = 0x08 + (7 : Fin 8) ∧ (0x10 : PortAddr).toNat = 0x10 + (0 : Fin 16) := by
  unfold Spec.InSwappedWindow; decide

theorem test_witness_littleEndianWrite : ∃ s : State, s.bswap = true := ⟨{ State.reset with bswap := true }, rfl⟩

/-- BSWAP = 0 after reset, and BSWAP = 1. -/
theorem test_witness_digestBytes : State.reset.bswap = false ∧ ∃ s : State, s.bswap = true :=
  ⟨rfl, { State.reset with bswap := true }, rfl⟩

theorem test_witness_writeLeavesOtherAddressesAlone :
    (∃ a b : PortAddr, a ≠ 0x01 ∧ b ≠ a ∧ b ≠ 0x02 ∧ (a = 0x03 → ¬ Spec.InSwappedWindow b) ∧ a = 0x03) ∧
      ∃ a b : PortAddr, a ≠ 0x01 ∧ b ≠ a ∧ b ≠ 0x02 ∧ (a = 0x03 → ¬ Spec.InSwappedWindow b) ∧ a = 0x1F := by
  unfold Spec.InSwappedWindow
  exact ⟨⟨0x03, 0x20, by decide⟩, ⟨0x1F, 0x1E, by decide⟩⟩

theorem test_witness_writesAreIdempotent : (0x02 : PortAddr) ≠ 0x01 ∧ (0x08 : PortAddr) ≠ 0x01 := by decide

/-- A legal STATUS with each code, and a step from it. -/
theorem test_witness_stepKeepsStatusLegal :
    Spec.StatusLegal State.reset ∧ Spec.StatusLegal { State.reset with err := true, errcode := 2 } ∧
      step State.reset = .next State.reset := by
  unfold Spec.StatusLegal
  exact ⟨by decide, by decide, rfl⟩

/-- An event that keeps DONE = 1 and is no FINAL. -/
theorem test_witness_doneMeansDigestUntouched :
    ∃ (e : PortEvent) (s t : State), portEvent e s = .next t ∧ t.done = true ∧ ∀ r, ¬ Spec.IsCommand e (.final r) := by
  refine ⟨.transact (.write 0x10 5), { State.reset with done := true }, _, rfl, rfl, ?_⟩
  rintro r ⟨w, hw, -⟩
  simp at hw

/-- An event that changes ERR or ERRCODE, of each of the four kinds. -/
theorem test_witness_errorFlagsWrittenOnlyBy :
    ([(.transact (.write 0x01 0x00000000), false), (.transact (.write 0x40 5), false),
      (.transact (.write 0x02 0x00000002), true), (.reset none, true)] : List (PortEvent × Bool)).all
      (fun p => after (portEvent p.1 { State.reset with err := p.2, errcode := if p.2 then 1 else 0 })
        (fun t => t.err != p.2)) = true := by decide

/-- For each register an event, not a reset, that changes it. -/
theorem test_witness_registersWrittenOnlyBy :
    [after (portEvent (.transact (.write 0x03 1)) State.reset) (fun t => t.bswap != State.reset.bswap),
      after (portEvent (.transact (.write 0x1F 1)) State.reset) (fun t => t.buf != State.reset.buf),
      after (portEvent (.transact (.write 0x20 1)) State.reset) (fun t => t.opx != State.reset.opx),
      after (portEvent (.transact (.write 0x21 1)) State.reset) (fun t => t.opy != State.reset.opy),
      after (portEvent (.transact (.write 0x22 1)) State.reset) (fun t => t.opz != State.reset.opz),
      after (portEvent (.transact (.write 0x01 0x16)) (ops 1 0 0)) (fun t => t.res != State.reset.res),
      after (portEvent (.transact (.write 0x08 1)) State.reset) (fun t => t.h != State.reset.h),
      after (portEvent (.transact (.write 0x05 1)) State.reset) (fun t => t.len != State.reset.len)].all id = true := by
  decide +kernel

/-- The shift amounts at the ends of both ranges. -/
theorem test_witness_shiftAmounts :
    ((0 : Arg).toNat < 32 ∧ (31 : Arg).toNat < 32) ∧ 32 ≤ (32 : Arg).toNat ∧ 32 ≤ (63 : Arg).toNat := by decide

/-- A word with the OPCODE of a command without argument that is not its word: ARG or RSV is not 0. -/
theorem test_witness_onlyWordOf :
    ([0x01, 0x02, 0x03, 0x12, 0x13, 0x14, 0x15, 0x16, 0x17] : List Word).all (fun op =>
      ((op ||| 0x100).extractLsb' 0 8 == op.extractLsb' 0 8 && op ||| 0x100 != op) &&
        ((op ||| 0x80000000).extractLsb' 0 8 == op.extractLsb' 0 8 && op ||| 0x80000000 != op)) = true := by decide

/-- A SCHEDW word with a reserved bit. -/
theorem test_witness_schedw :
    (0x00004018 : Word).extractLsb' 0 8 = 0x18 ∧ (0x00004018 : Word).extractLsb' 14 18 ≠ 0 := by decide

/-- The tail lengths at the ends of both ranges. -/
theorem test_witness_tailLengths :
    ((0 : Arg).toNat < 56 ∧ (55 : Arg).toNat < 56) ∧ 56 ≤ (56 : Arg).toNat ∧ 56 ≤ (63 : Arg).toNat := by decide

/-- Two buffers that differ only beyond a tail of three bytes. -/
theorem test_witness_finalIgnoresBytesBeyondTail :
    (∀ k : Fin 64, k < (3 : Arg).toNat →
        Spec.blockByte (filled 0x616263ff) k = Spec.blockByte (filled 0x61626300) k) ∧
      filled 0x616263ff ≠ filled 0x61626300 := by
  unfold Spec.blockByte; decide

theorem test_witness_wellFormedCommand : (Instr.final 63).wf = true ∧ (Instr.rotr 31).wf = true ∧ Instr.ch.wf = true := by
  decide

/-- Two states with one BUF that differ elsewhere. -/
theorem test_witness_initLeavesNoResidue :
    (Instr.final 3).wf = true ∧ ∃ s u : State, s.buf = u.buf ∧ s.h ≠ u.h ∧ s.len ≠ u.len :=
  ⟨rfl, State.reset, { State.reset with h := #v[0, 0, 0, 0, 0, 0, 0, 0], len := 1 }, by decide⟩

/-- BSWAP = 0, for LOADBUF and for the sequence of a whole message. -/
theorem test_witness_hashSequence : ∃ s : State, s.bswap = false := ⟨State.reset, rfl⟩

end Sys2Proof.Tests
end

