-- ==== Sys2Proof/Proofs/Datapath.lean ====
section
/-! PROOF. The iterated datapath computes `compress` (00_scope rule R9). The idea: before round t the window holds
W[t..t+15], as far as the schedule's 64 words reach, so each tick runs the round that `runRounds` runs next. In the last
16 ticks words enter the window that are no schedule words; no round reads them. -/

namespace Sys2Proof.Machine

/-! ### The rounds from round t on -/

/-- Rounds t, ..., 63 of `runRounds`. -/
def runRoundsFrom (t : Nat) (w : List Word) (r : Working) : Working :=
  ((Rom.kTable.zip w).drop t).foldl (fun r kw => compressRound kw.1 kw.2 r) r

theorem runRoundsFrom_zero (w : List Word) (r : Working) : runRoundsFrom 0 w r = runRounds w r := rfl

theorem runRoundsFrom_of_ge (t : Nat) (w : List Word) (r : Working) (ht : 64 ≤ t) : runRoundsFrom t w r = r := by
  have none_left : (Rom.kTable.zip w).drop t = [] := List.drop_eq_nil_of_le (by simp; omega)
  rw [runRoundsFrom, none_left, List.foldl_nil]

theorem runRoundsFrom_of_lt (t : Nat) (w : List Word) (r : Working) (ht : t < 64) (hw : t < w.length) :
    runRoundsFrom t w r = runRoundsFrom (t + 1) w (compressRound (Rom.k t) (w.getD t 0) r) := by
  have hk : t < Rom.kTable.length := by simpa using ht
  rw [runRoundsFrom, List.drop_eq_getElem_cons (by simp; omega), List.foldl_cons, List.getElem_zip,
    ← List.getD_eq_getElem _ 0 hk, ← List.getD_eq_getElem _ 0 hw]
  rfl

/-! ### The sliding window -/

theorem getElem_slideWindow_of_lt (v : Vector Word 16) (j : Nat) (hj : j < 15) : (slideWindow v)[j] = v[j + 1] := by
  interval_cases j <;> rfl

theorem getElem_slideWindow_last (v : Vector Word 16) :
    (slideWindow v)[15] = smallSigma1 v[14] + v[9] + smallSigma0 v[1] + v[0] := rfl

/-- The window holds the words W[t..t+15] of the block's schedule, as far as the schedule reaches. -/
def Datapath.HoldsSchedule (b : Vector Word 16) (d : Datapath) : Prop :=
  ∀ (j : Nat) (hj : j < 16), d.t + j < 64 → d.window[j] = (schedule b).getD (d.t + j) 0

theorem startDatapath_holdsSchedule (x : Vector Word 8) (b : Vector Word 16) (left : Datapath) :
    (startDatapath x b left).HoldsSchedule b := by
  intro j hj _
  simp only [startDatapath, Nat.zero_add, getD_schedule_of_lt b j hj]

/-- A tick keeps the window on the schedule: the word that enters is the recurrence of R131. -/
theorem tick_holdsSchedule {b : Vector Word 16} {d : Datapath} (hd : d.HoldsSchedule b) :
    (tick d).HoldsSchedule b := by
  intro j hj hlt
  simp only [tick] at hlt ⊢
  rcases Nat.lt_or_eq_of_le (Nat.le_of_lt_succ hj) with hold | rfl
  · rw [getElem_slideWindow_of_lt d.window j hold, hd (j + 1) (by omega) (by omega), Nat.add_right_comm, Nat.add_assoc]
  · rw [getElem_slideWindow_last, hd 14 (by omega) (by omega), hd 9 (by omega) (by omega), hd 1 (by omega) (by omega),
      hd 0 (by omega) (by omega), getD_schedule_of_ge b (d.t + 1 + 15) (by omega) hlt]
    rfl

/-- The round of a tick, before round 64, reads the schedule's word t. -/
theorem tick_work {b : Vector Word 16} {d : Datapath} (hd : d.HoldsSchedule b) (ht : d.t < 64) :
    (tick d).work = compressRound (Rom.k d.t) ((schedule b).getD d.t 0) d.work := by
  simp only [tick, hd 0 (by omega) ht, Nat.add_zero]

/-! ### The ticks -/

/-- The ticks up to round 64 run the rounds that are left. -/
theorem ticks_work {b : Vector Word 16} (n : Nat) (d : Datapath) (hd : d.HoldsSchedule b) (hn : d.t + n = 64) :
    (ticks n d).work = runRoundsFrom d.t (schedule b) d.work := by
  induction n generalizing d with
  | zero => rw [ticks, runRoundsFrom_of_ge _ _ _ (by omega)]
  | succ n ih =>
    have ht : d.t < 64 := by omega
    have counter : (tick d).t = d.t + 1 := rfl
    rw [ticks, ih (tick d) (tick_holdsSchedule hd) (by omega), counter, tick_work hd ht,
      ← runRoundsFrom_of_lt d.t _ _ ht (by simpa using ht)]

/-- Settles O43: the window stays on the schedule, so the 64 ticks run the 64 rounds of `compress`. -/
theorem iteratedDatapathComputesCompress : Obligations.IteratedDatapathComputesCompress := by
  intro left x b
  have rounds : (ticks Config.rounds (startDatapath x b left)).work = runRounds (schedule b) (loadWorking x) :=
    (ticks_work Config.rounds _ (startDatapath_holdsSchedule x b left) rfl).trans (runRoundsFrom_zero _ _)
  rw [compressIterated, rounds, compress]

end Sys2Proof.Machine
end

