-- ==== Sys2Proof/Proofs/State.lean ====
section
/-! PROOF. What events and commands do to the registers of 10_state. The idea: every register has few writers, so each
statement follows from `portEvent_cases` and a lemma that says who writes the register: a command (`CommandShape`) or a
write of another address (`writtenState`). -/

namespace Sys2Proof.Machine

/-! ### Commands -/

/-- An error that stands is kept (60_exceptions rule R182). -/
theorem raiseError_of_err {s : State} (e : ErrorKind) (h : s.err = true) : raiseError e s = s := by
  rw [raiseError, if_pos h]

/-- A command writes DONE, the error, LEN, H and RES at most. -/
theorem CommandShape.frame {s t : State} {i : Instr} (hs : CommandShape s i t) :
    t = { s with done := t.done, err := t.err, errcode := t.errcode, len := t.len, h := t.h, res := t.res } := by
  cases hs with
  | rotrIllegal | shrIllegal => unfold raiseError; split <;> rfl
  | _ => simp only

/-- A command keeps the error or raises ILLEGAL_CMD. -/
theorem CommandShape.error_cases {s t : State} {i : Instr} (hs : CommandShape s i t) :
    (t.err = s.err ∧ t.errcode = s.errcode) ∨ (i.wf = false ∧ t = raiseError .illegalCmd s) := by
  cases hs with
  | rotrIllegal n hn | shrIllegal n hn => exact .inr ⟨decide_eq_false hn, rfl⟩
  | _ => exact .inl ⟨rfl, rfl⟩

/-- A well-formed command records no error (60_exceptions rule R185). -/
theorem CommandShape.error_eq {s t : State} {i : Instr} (hs : CommandShape s i t) (hi : i.wf = true) :
    t.err = s.err ∧ t.errcode = s.errcode := by
  rcases hs.error_cases with kept | ⟨illFormed, -⟩
  · exact kept
  · exact absurd (hi.symm.trans illFormed) (by decide)

/-- The row of R39's table for a write of a command word. -/
theorem CommandShape.done_eq {s t : State} {i : Instr} {w : Word} (hs : CommandShape s i t) (hd : decode w = .ok i) :
    t.done = Spec.doneAfter (.transact (.write 0x01 w)) s := by
  cases hs <;> simp [Spec.doneAfter, hd]

/-- A command other than FINAL that leaves DONE = 1 found DONE = 1 and writes neither H nor LEN. -/
theorem CommandShape.digest_kept {s t : State} {i : Instr} (hs : CommandShape s i t) (hdone : t.done = true)
    (hi : ∀ r, i ≠ .final r) : s.done = true ∧ t.h = s.h ∧ t.len = s.len := by
  cases hs with
  | init | compress | block => cases hdone
  | final r => exact absurd rfl (hi r)
  | rotrIllegal | shrIllegal => simpa using hdone
  | _ => exact ⟨hdone, rfl, rfl⟩

/-- The commands that write RES (10_state rule R32). -/
theorem CommandShape.res_changed {s t : State} {i : Instr} (hs : CommandShape s i t) (hne : t.res ≠ s.res) :
    (∃ n, i = .rotr n) ∨ (∃ n, i = .shr n) ∨ i = .ch ∨ i = .maj ∨ i = .bsig0 ∨ i = .bsig1 ∨ i = .ssig0 ∨
      i = .ssig1 ∨ ∃ n, i = .schedw n := by
  cases hs with
  | init | compress | block | final => exact absurd rfl hne
  | _ => simp

/-- The commands that write H (10_state rule R29). -/
theorem CommandShape.h_changed {s t : State} {i : Instr} (hs : CommandShape s i t) (hne : t.h ≠ s.h) :
    i = .init ∨ i = .compress ∨ i = .block ∨ ∃ r, i = .final r := by
  cases hs with
  | init | compress | block | final => simp
  | rotrIllegal | shrIllegal => exact absurd (raiseError_h s _) hne
  | _ => exact absurd rfl hne

/-- The commands that write LEN (10_state rule R28). -/
theorem CommandShape.len_changed {s t : State} {i : Instr} (hs : CommandShape s i t) (hne : t.len ≠ s.len) :
    i = .init ∨ i = .block ∨ ∃ r, i = .final r := by
  cases hs with
  | init | block | final => simp
  | rotrIllegal | shrIllegal => exact absurd (raiseError_len s _) hne
  | _ => exact absurd rfl hne

/-! ### Illegal words -/

/-- The legal words, by their fields (30_encoding rules R80 to R83). -/
theorem fields_of_not_illegalWord {w : Word} (legal : ¬ Spec.IllegalWord w) :
    rsvField w = 0 ∧
      ((opcodeField w = 0x04 ∨ opcodeField w = 0x18) ∨
        ((argField w).toNat < 32 ∧ (opcodeField w = 0x10 ∨ opcodeField w = 0x11)) ∨
        (argField w = 0 ∧ (opcodeField w = 0x01 ∨ opcodeField w = 0x02 ∨ opcodeField w = 0x03 ∨ opcodeField w = 0x12 ∨
          opcodeField w = 0x13 ∨ opcodeField w = 0x14 ∨ opcodeField w = 0x15 ∨ opcodeField w = 0x16 ∨
          opcodeField w = 0x17))) := by
  have arg5 : ∀ a : Arg, ¬ a.getLsbD 5 = true ↔ a.toNat < 32 := by decide
  simp only [Spec.IllegalWord, not_or, not_and_or, not_not, arg5] at legal
  simp only [rsvField, opcodeField, argField, BitVec.toNat_eq, BitVec.ofNat_eq_ofNat, BitVec.toNat_ofNat] at legal ⊢
  omega

/-- A word that no row of the opcode map selects is illegal field by field (30_encoding rule R83). -/
theorem illegalWord_of_unselected {w : Word}
    (unselected : ∀ row ∈ opcodeMap, w &&& row.mask ≠ row.pattern) : Spec.IllegalWord w := by
  by_contra legal
  have no_row (m : Nat) (hm : m < 13) : w &&& (opcodeMap[m]'hm).mask ≠ (opcodeMap[m]'hm).pattern :=
    unselected _ (List.getElem_mem hm)
  obtain ⟨hr, hop | ⟨ha, hop⟩ | ⟨ha, hop⟩⟩ := fields_of_not_illegalWord legal
  · rcases hop with ho | ho
    · exact no_row 3 (by decide) ((masked_arg6 w 0x04).2 ⟨hr, ho⟩)
    · exact no_row 12 (by decide) ((masked_arg6 w 0x18).2 ⟨hr, ho⟩)
  · rcases hop with ho | ho
    · exact no_row 4 (by decide) ((masked_arg5 w 0x10).2 ⟨hr, ha, ho⟩)
    · exact no_row 5 (by decide) ((masked_arg5 w 0x11).2 ⟨hr, ha, ho⟩)
  · rcases hop with ho | ho | ho | ho | ho | ho | ho | ho | ho
    · exact no_row 0 (by decide) ((masked_noArg w 0x01).2 ⟨hr, ha, ho⟩)
    · exact no_row 1 (by decide) ((masked_noArg w 0x02).2 ⟨hr, ha, ho⟩)
    · exact no_row 2 (by decide) ((masked_noArg w 0x03).2 ⟨hr, ha, ho⟩)
    · exact no_row 6 (by decide) ((masked_noArg w 0x12).2 ⟨hr, ha, ho⟩)
    · exact no_row 7 (by decide) ((masked_noArg w 0x13).2 ⟨hr, ha, ho⟩)
    · exact no_row 8 (by decide) ((masked_noArg w 0x14).2 ⟨hr, ha, ho⟩)
    · exact no_row 9 (by decide) ((masked_noArg w 0x15).2 ⟨hr, ha, ho⟩)
    · exact no_row 10 (by decide) ((masked_noArg w 0x16).2 ⟨hr, ha, ho⟩)
    · exact no_row 11 (by decide) ((masked_noArg w 0x17).2 ⟨hr, ha, ho⟩)

/-- A word that decoding rejects is illegal. -/
theorem illegalWord_of_decode_error {w : Word} {r : DecodeReject} (h : decode w = .error r) : Spec.IllegalWord w := by
  unfold decode at h
  split at h
  · cases h
  · next hnone =>
    exact illegalWord_of_unselected fun row hrow hsel => List.find?_eq_none.1 hnone row hrow (beq_iff_eq.2 hsel)

/-! ### Writes of other addresses -/

/-- The registers whose write is a BAD_ACCESS (60_exceptions rule R184). -/
def PortReg.readOnly : PortReg → Bool
  | .id | .res | .k _ | .reserved => true
  | _ => false

/-- The registers whose write clears DONE (10_state rule R39). -/
def PortReg.clearsDone : PortReg → Bool
  | .lenLo | .lenHi | .h _ => true
  | _ => false

theorem notWritable_of_readOnly : ∀ a : PortAddr, (addressMap a).readOnly = true → Spec.NotWritable a := by
  unfold Spec.NotWritable; decide

theorem clearsDone_addressMap : ∀ a : PortAddr,
    (addressMap a).clearsDone = true ↔ a = 0x04 ∨ a = 0x05 ∨ (0x08 ≤ a.toNat ∧ a.toNat ≤ 0x0F) := by
  decide

/-- An address that the map sends to `r` is an address of `r`. -/
theorem isAddressOf_of_eq {a : PortAddr} {r : PortReg} (h : addressMap a = r) : isAddressOf r a = true :=
  h ▸ isAddressOf_addressMap a

section
variable {r : PortReg} {v : Word} {s : State}

/-- A write changes the error by a BAD_ACCESS or by the write-1-to-clear of STATUS. -/
theorem writtenState_error_cases (r : PortReg) (v : Word) (s : State) :
    ((writtenState r v s).err = s.err ∧ (writtenState r v s).errcode = s.errcode) ∨
      (r.readOnly = true ∧ writtenState r v s = raiseError .badAccess s) ∨
      (r = .status ∧ clearsError v = true ∧ writtenState r v s = clearError s) := by
  cases r with
  | id | res | k | reserved => exact .inr (.inl ⟨rfl, rfl⟩)
  | status =>
    by_cases hv : clearsError v = true
    · exact .inr (.inr ⟨rfl, hv, if_pos hv⟩)
    · exact .inl (by simp [writtenState, hv])
  | _ => exact .inl ⟨rfl, rfl⟩

theorem writtenState_done (r : PortReg) (v : Word) (s : State) :
    (writtenState r v s).done = if r.clearsDone then false else s.done := by
  cases r <;> simp [writtenState, PortReg.clearsDone, apply_ite State.done]

theorem writtenState_bswap_changed (hne : (writtenState r v s).bswap ≠ s.bswap) : r = .cfg := by
  cases r with
  | cfg => rfl
  | _ => exact absurd (by simp [writtenState, apply_ite State.bswap]) hne

theorem writtenState_buf_changed (hne : (writtenState r v s).buf ≠ s.buf) : ∃ j, r = .buf j := by
  cases r with
  | buf j => exact ⟨j, rfl⟩
  | _ => exact absurd (by simp [writtenState, apply_ite State.buf]) hne

theorem writtenState_opx_changed (hne : (writtenState r v s).opx ≠ s.opx) : r = .opx := by
  cases r with
  | opx => rfl
  | _ => exact absurd (by simp [writtenState, apply_ite State.opx]) hne

theorem writtenState_opy_changed (hne : (writtenState r v s).opy ≠ s.opy) : r = .opy := by
  cases r with
  | opy => rfl
  | _ => exact absurd (by simp [writtenState, apply_ite State.opy]) hne

theorem writtenState_opz_changed (hne : (writtenState r v s).opz ≠ s.opz) : r = .opz := by
  cases r with
  | opz => rfl
  | _ => exact absurd (by simp [writtenState, apply_ite State.opz]) hne

/-- No host write changes RES (10_state rule R32). -/
@[simp] theorem writtenState_res (r : PortReg) (v : Word) (s : State) : (writtenState r v s).res = s.res := by
  cases r <;> simp [writtenState, apply_ite State.res]

theorem writtenState_h_changed (hne : (writtenState r v s).h ≠ s.h) : ∃ i, r = .h i := by
  cases r with
  | h i => exact ⟨i, rfl⟩
  | _ => exact absurd (by simp [writtenState, apply_ite State.h]) hne

theorem writtenState_len_changed (hne : (writtenState r v s).len ≠ s.len) : r = .lenLo ∨ r = .lenHi := by
  cases r with
  | lenLo | lenHi => simp
  | _ => exact absurd (by simp [writtenState, apply_ite State.len]) hne

/-- A write of another address than CMD that leaves DONE = 1 found DONE = 1 and writes neither H nor LEN. -/
theorem writtenState_digest_kept (hdone : (writtenState r v s).done = true) :
    s.done = true ∧ (writtenState r v s).h = s.h ∧ (writtenState r v s).len = s.len := by
  rw [writtenState_done] at hdone
  obtain ⟨hr, hs⟩ : r.clearsDone = false ∧ s.done = true := by simpa using hdone
  refine ⟨hs, ?_, ?_⟩ <;> by_contra hne
  · obtain ⟨i, rfl⟩ := writtenState_h_changed hne
    cases hr
  · rcases writtenState_len_changed hne with rfl | rfl <;> cases hr

end

/-! ### Events -/

/-- What an event does to the error: nothing, an ILLEGAL_CMD, a BAD_ACCESS, the clear, or reset (10_state rule R40). -/
theorem portEvent_error_cases {e : PortEvent} {s t : State} (h : portEvent e s = .next t) :
    (t.err = s.err ∧ t.errcode = s.errcode) ∨
    (∃ w, e = .transact (.write 0x01 w) ∧ Spec.IllegalWord w ∧ t = raiseError .illegalCmd s) ∨
    (∃ a v, e = .transact (.write a v) ∧ Spec.NotWritable a ∧ t = raiseError .badAccess s) ∨
    (∃ v, e = .transact (.write 0x02 v) ∧ v.getLsbD 1 = true ∧ t = clearError s) ∨
    ∃ x, e = .reset x ∧ t = resetMachine s := by
  rcases portEvent_cases h with
    ⟨a, rfl, rfl⟩ | ⟨a, v, rfl, -, rfl⟩ | ⟨w, i, rfl, hd, hs⟩ | ⟨w, r, rfl, hd, rfl⟩ | hreset
  · exact .inl ⟨rfl, rfl⟩
  · rcases writtenState_error_cases (addressMap a) v s with kept | ⟨hr, ht⟩ | ⟨hr, hv, ht⟩
    · exact .inl kept
    · exact .inr (.inr (.inl ⟨a, v, rfl, notWritable_of_readOnly a hr, ht⟩))
    · obtain rfl : a = 0x02 := by simpa [isAddressOf] using isAddressOf_of_eq hr
      exact .inr (.inr (.inr (.inl ⟨v, rfl, hv, ht⟩)))
  · obtain ⟨-, -, -, wellFormed⟩ := decode_fields hd
    exact .inl (hs.error_eq wellFormed)
  · exact .inr (.inl ⟨w, rfl, illegalWord_of_decode_error hd, rfl⟩)
  · exact .inr (.inr (.inr (.inr hreset)))

/-- A register that no read and no error writes (`f` is its projection) changes, outside reset, by a write of another
address than CMD or by a command. -/
theorem portEvent_changed {α : Type} (f : State → α) {e : PortEvent} {s t : State} (h : portEvent e s = .next t)
    (notReset : ∀ x, e ≠ .reset x) (hne : f t ≠ f s) (keptByRead : ∀ x, f (setRdata x s) = f s)
    (keptByError : ∀ k, f (raiseError k s) = f s) :
    (∃ a v, e = .transact (.write a v) ∧ f (writtenState (addressMap a) v s) ≠ f s) ∨
      ∃ i, Spec.IsCommand e i ∧ CommandShape s i t := by
  rcases portEvent_cases h with
    ⟨a, rfl, rfl⟩ | ⟨a, v, he, -, rfl⟩ | ⟨w, i, he, hd, hs⟩ | ⟨w, r, rfl, -, rfl⟩ | ⟨x, he, -⟩
  · exact absurd (keptByRead _) hne
  · exact .inl ⟨a, v, he, hne⟩
  · exact .inr ⟨i, ⟨w, he, hd⟩, hs⟩
  · exact absurd (keptByError _) hne
  · exact absurd he (notReset x)

section
variable {e : PortEvent} {s t : State} (h : portEvent e s = .next t) (notReset : ∀ x, e ≠ .reset x)
include h notReset

/-- A register that no command writes either, and that is written at `own` alone, changes by a write of `own`. -/
theorem portEvent_changed_at {α : Type} (f : State → α) (own : PortAddr) (hne : f t ≠ f s)
    (keptByRead : ∀ x, f (setRdata x s) = f s) (keptByError : ∀ k, f (raiseError k s) = f s)
    (keptByCommand : ∀ i, CommandShape s i t → f t = f s)
    (ownAddress : ∀ a v, f (writtenState (addressMap a) v s) ≠ f s → a = own) :
    ∃ v, e = .transact (.write own v) := by
  rcases portEvent_changed f h notReset hne keptByRead keptByError with ⟨a, v, rfl, hw⟩ | ⟨i, -, hs⟩
  · exact ⟨v, by rw [ownAddress a v hw]⟩
  · exact absurd (keptByCommand i hs) hne

theorem bswap_changed (hne : t.bswap ≠ s.bswap) : ∃ v, e = .transact (.write 0x03 v) :=
  portEvent_changed_at h notReset State.bswap 0x03 hne (fun _ => rfl) (raiseError_bswap s)
    (fun _ hs => (congrArg State.bswap hs.frame :))
    fun _ _ hw => by simpa [isAddressOf] using isAddressOf_of_eq (writtenState_bswap_changed hw)

theorem buf_changed (hne : t.buf ≠ s.buf) :
    ∃ a v, e = .transact (.write a v) ∧ 0x10 ≤ a.toNat ∧ a.toNat ≤ 0x1F := by
  rcases portEvent_changed State.buf h notReset hne (fun _ => rfl) (raiseError_buf s) with
    ⟨a, v, rfl, hw⟩ | ⟨i, -, hs⟩
  · obtain ⟨j, hj⟩ := writtenState_buf_changed hw
    have ha : a.toNat = 0x10 + j := by simpa [isAddressOf] using isAddressOf_of_eq hj
    exact ⟨a, v, rfl, by omega⟩
  · exact absurd (congrArg State.buf hs.frame) hne

theorem opx_changed (hne : t.opx ≠ s.opx) : ∃ v, e = .transact (.write 0x20 v) :=
  portEvent_changed_at h notReset State.opx 0x20 hne (fun _ => rfl) (raiseError_opx s)
    (fun _ hs => (congrArg State.opx hs.frame :))
    fun _ _ hw => by simpa [isAddressOf] using isAddressOf_of_eq (writtenState_opx_changed hw)

theorem opy_changed (hne : t.opy ≠ s.opy) : ∃ v, e = .transact (.write 0x21 v) :=
  portEvent_changed_at h notReset State.opy 0x21 hne (fun _ => rfl) (raiseError_opy s)
    (fun _ hs => (congrArg State.opy hs.frame :))
    fun _ _ hw => by simpa [isAddressOf] using isAddressOf_of_eq (writtenState_opy_changed hw)

theorem opz_changed (hne : t.opz ≠ s.opz) : ∃ v, e = .transact (.write 0x22 v) :=
  portEvent_changed_at h notReset State.opz 0x22 hne (fun _ => rfl) (raiseError_opz s)
    (fun _ hs => (congrArg State.opz hs.frame :))
    fun _ _ hw => by simpa [isAddressOf] using isAddressOf_of_eq (writtenState_opz_changed hw)

theorem res_changed (hne : t.res ≠ s.res) : ∃ i, Spec.IsCommand e i ∧
    ((∃ n, i = .rotr n) ∨ (∃ n, i = .shr n) ∨ i = .ch ∨ i = .maj ∨ i = .bsig0 ∨ i = .bsig1 ∨ i = .ssig0 ∨
      i = .ssig1 ∨ ∃ n, i = .schedw n) := by
  rcases portEvent_changed State.res h notReset hne (fun _ => rfl) (raiseError_res s) with
    ⟨a, v, rfl, hw⟩ | ⟨i, he, hs⟩
  · exact absurd (writtenState_res _ v s) hw
  · exact ⟨i, he, hs.res_changed hne⟩

theorem h_changed (hne : t.h ≠ s.h) :
    (∃ a v, e = .transact (.write a v) ∧ 0x08 ≤ a.toNat ∧ a.toNat ≤ 0x0F) ∨
      ∃ i, Spec.IsCommand e i ∧ (i = .init ∨ i = .compress ∨ i = .block ∨ ∃ r, i = .final r) := by
  rcases portEvent_changed State.h h notReset hne (fun _ => rfl) (raiseError_h s) with
    ⟨a, v, rfl, hw⟩ | ⟨i, he, hs⟩
  · obtain ⟨j, hj⟩ := writtenState_h_changed hw
    have ha : a.toNat = 0x08 + j := by simpa [isAddressOf] using isAddressOf_of_eq hj
    exact .inl ⟨a, v, rfl, by omega⟩
  · exact .inr ⟨i, he, hs.h_changed hne⟩

theorem len_changed (hne : t.len ≠ s.len) :
    (∃ v, e = .transact (.write 0x04 v)) ∨ (∃ v, e = .transact (.write 0x05 v)) ∨
      ∃ i, Spec.IsCommand e i ∧ (i = .init ∨ i = .block ∨ ∃ r, i = .final r) := by
  rcases portEvent_changed State.len h notReset hne (fun _ => rfl) (raiseError_len s) with
    ⟨a, v, rfl, hw⟩ | ⟨i, he, hs⟩
  · rcases writtenState_len_changed hw with hr | hr
    · obtain rfl : a = 0x04 := by simpa [isAddressOf] using isAddressOf_of_eq hr
      exact .inl ⟨v, rfl⟩
    · obtain rfl : a = 0x05 := by simpa [isAddressOf] using isAddressOf_of_eq hr
      exact .inr (.inl ⟨v, rfl⟩)
  · exact .inr (.inr ⟨i, he, hs.len_changed hne⟩)

end

/-! ### A legal STATUS -/

/-- Settles O17: both sides are the constants of reset. -/
theorem resetStatusLegal : Obligations.ResetStatusLegal := by
  unfold Obligations.ResetStatusLegal Spec.StatusLegal
  decide

/-- Whether STATUS is legal depends on ERR and ERRCODE alone. -/
theorem statusLegal_of_eq {s t : State} (hs : Spec.StatusLegal s) (herr : t.err = s.err)
    (hcode : t.errcode = s.errcode) : Spec.StatusLegal t := by
  rw [Spec.StatusLegal, herr, hcode]
  exact hs

theorem raiseError_statusLegal {s : State} (e : ErrorKind) (hs : Spec.StatusLegal s) :
    Spec.StatusLegal (raiseError e s) := by
  by_cases herr : s.err = true
  · rw [raiseError_of_err e herr]
    exact hs
  · rw [Spec.StatusLegal, raiseError_err, raiseError_errcode, if_neg herr]
    cases e <;> decide

theorem clearError_statusLegal (s : State) : Spec.StatusLegal (clearError s) := by
  rw [Spec.StatusLegal, clearError_err, clearError_errcode]
  decide

theorem portEvent_statusLegal {e : PortEvent} {s t : State} (hs : Spec.StatusLegal s) (h : portEvent e s = .next t) :
    Spec.StatusLegal t := by
  rcases portEvent_error_cases h with
    ⟨herr, hcode⟩ | ⟨_, -, -, rfl⟩ | ⟨_, _, -, -, rfl⟩ | ⟨_, -, -, rfl⟩ | ⟨_, -, rfl⟩
  · exact statusLegal_of_eq hs herr hcode
  · exact raiseError_statusLegal _ hs
  · exact raiseError_statusLegal _ hs
  · exact clearError_statusLegal s
  · exact statusLegal_of_eq resetStatusLegal (resetMachine_err s) (resetMachine_errcode s)

/-- Settles O18: a step is one port event or nothing, and an event keeps the error, raises one, clears it or resets. -/
theorem stepKeepsStatusLegal : Obligations.StepKeepsStatusLegal := by
  intro s t hs h
  cases hp : s.pending with
  | nil =>
    cases (step_nil s hp).symm.trans h
    exact hs
  | cons e rest =>
    rw [step_cons s e rest hp] at h
    exact portEvent_statusLegal (s := { s with pending := rest }) hs h

/-! ### DONE -/

/-- The row of R39's table for a write of any address but CMD. -/
theorem writtenState_done_eq {a : PortAddr} (v : Word) (s : State) (ha : a ≠ 0x01) :
    (writtenState (addressMap a) v s).done = Spec.doneAfter (.transact (.write a v)) s := by
  rw [writtenState_done, Spec.doneAfter, if_neg ha]
  exact if_congr (clearsDone_addressMap a) rfl rfl

/-- Every port event answers a next state. -/
theorem portEvent_completes (e : PortEvent) (s : State) : ∃ t, portEvent e s = .next t := by
  match e with
  | .transact (.read _) | .reset _ => exact ⟨_, rfl⟩
  | .transact (.write a v) => exact portWrite_completes a v s

/-- Settles O19, by the cases of an event: each one's DONE is its row of the table. -/
theorem doneFollowsItsTable : Obligations.DoneFollowsItsTable := by
  intro e s
  obtain ⟨t, h⟩ := portEvent_completes e s
  refine ⟨t, h, ?_⟩
  rcases portEvent_cases h with
    ⟨a, rfl, rfl⟩ | ⟨a, v, rfl, ha, rfl⟩ | ⟨w, i, rfl, hd, hs⟩ | ⟨w, r, rfl, hd, rfl⟩ | ⟨x, rfl, rfl⟩
  · rfl
  · exact writtenState_done_eq v s ha
  · exact hs.done_eq hd
  · simp [Spec.doneAfter, hd]
  · rfl

/-- Settles O20: whatever writes H or LEN, FINAL apart, clears DONE with the same event. -/
theorem doneMeansDigestUntouched : Obligations.DoneMeansDigestUntouched := by
  intro e s t h hdone notFinal
  rcases portEvent_cases h with
    ⟨a, rfl, rfl⟩ | ⟨a, v, rfl, -, rfl⟩ | ⟨w, i, he, hd, hs⟩ | ⟨w, r, rfl, -, rfl⟩ | ⟨x, rfl, rfl⟩
  · exact ⟨hdone, rfl, rfl⟩
  · exact writtenState_digest_kept hdone
  · exact hs.digest_kept hdone fun r hi => notFinal r ⟨w, he, hi ▸ hd⟩
  · exact ⟨(raiseError_done s _).symm.trans hdone, raiseError_h s _, raiseError_len s _⟩
  · cases hdone

/-! ### Who writes which register -/

/-- Raising an error changes something only when no error stood before (60_exceptions rule R182). -/
theorem err_eq_false_of_raiseError_changes {e : ErrorKind} {s : State}
    (hne : (raiseError e s).err ≠ s.err ∨ (raiseError e s).errcode ≠ s.errcode) : s.err = false := by
  by_contra herr
  rw [raiseError_of_err e (Bool.not_eq_false _ ▸ herr)] at hne
  exact hne.elim (absurd rfl) (absurd rfl)

/-- Settles O21, by what an event does to the error. -/
theorem errorFlagsWrittenOnlyBy : Obligations.ErrorFlagsWrittenOnlyBy := by
  intro e s t h hne
  rcases portEvent_error_cases h with
    ⟨herr, hcode⟩ | ⟨w, he, hw, rfl⟩ | ⟨a, v, he, ha, rfl⟩ | ⟨v, he, hv, -⟩ | ⟨x, he, -⟩
  · exact absurd hne (not_or.2 ⟨not_not.2 herr, not_not.2 hcode⟩)
  · exact .inl ⟨err_eq_false_of_raiseError_changes hne, w, he, hw⟩
  · exact .inr (.inl ⟨err_eq_false_of_raiseError_changes hne, a, v, he, ha⟩)
  · exact .inr (.inr (.inl ⟨v, he, hv⟩))
  · exact .inr (.inr (.inr ⟨x, he⟩))

/-- Settles O22, register by register. -/
theorem registersWrittenOnlyBy : Obligations.RegistersWrittenOnlyBy := fun _ _ _ h notReset =>
  ⟨bswap_changed h notReset, buf_changed h notReset, opx_changed h notReset, opy_changed h notReset,
    opz_changed h notReset, res_changed h notReset, h_changed h notReset, len_changed h notReset⟩

/-! ### What a command leaves alone and does not read -/

/-- Settles O38: the frame of a command, and a well-formed one records no error. -/
theorem commandsLeaveOperandsAndErrorAlone : Obligations.CommandsLeaveOperandsAndErrorAlone := by
  intro i s hi
  obtain ⟨t, ht, hs⟩ := exec_shape i s
  obtain ⟨herr, hcode⟩ := hs.error_eq hi
  have kept {α : Type} (f : State → α) := congrArg f hs.frame
  exact ⟨t, ht, kept State.buf, kept State.opx, kept State.opy, kept State.opz, kept State.bswap, herr, hcode,
    kept State.pending, kept State.rdata⟩

/-- Settles O39: the H, LEN and RES of a command are those of the other state, whose H, LEN, BUF and operands are the
same. -/
theorem commandsIgnoreStatusAndByteSwap : Obligations.CommandsIgnoreStatusAndByteSwap := by
  intro i s d e b c hi
  cases i with
  | rotr n | shr n =>
    have hn : n.toNat < 32 := of_decide_eq_true hi
    exact ⟨_, _, execShift_of_lt _ n s hn, execShift_of_lt _ n _ hn, rfl, rfl, rfl⟩
  | _ => exact ⟨_, _, rfl, rfl, rfl, rfl, rfl⟩

/-! ### Reset -/

/-- Settles O8: every value is a constant of the model. -/
theorem resetStateHoldsResetValues : Obligations.ResetStateHoldsResetValues := by
  unfold Obligations.ResetStateHoldsResetValues
  decide

end Sys2Proof.Machine
end

