-- ==== Sys2Proof/Proofs/Memory.lean ====
section
/-! PROOF. The register port (20_memory): what a read of each address returns and what a write of it does. The idea: the
address map turns a statement about addresses into one about registers, and a register reads what its own field holds.
-/

namespace Sys2Proof.Machine

/-! ### The address map -/

/-- The registers that CFG.BSWAP swaps (20_memory rule R58). -/
def PortReg.swapped : PortReg → Bool
  | .h _ | .buf _ => true
  | _ => false

theorem inSwappedWindow_of_swapped : ∀ a : PortAddr, (addressMap a).swapped = true → Spec.InSwappedWindow a := by
  unfold Spec.InSwappedWindow; decide

/-- The H and BUF windows, word by word. -/
theorem inSwappedWindow_cases : ∀ a : PortAddr, Spec.InSwappedWindow a →
    (∃ i : Fin 8, a = BitVec.ofNat 7 (0x08 + i)) ∨ ∃ j : Fin 16, a = BitVec.ofNat 7 (0x10 + j) := by
  unfold Spec.InSwappedWindow; decide

theorem readOnly_of_notWritable : ∀ a : PortAddr, Spec.NotWritable a → (addressMap a).readOnly = true := by
  unfold Spec.NotWritable; decide

theorem addressMap_reserved : ∀ a : PortAddr,
    a = 0x06 ∨ a = 0x07 ∨ (0x24 ≤ a.toNat ∧ a.toNat ≤ 0x3F) → addressMap a = .reserved := by
  decide

/-- No two addresses name the same register, but for the reserved ones (20_memory rule R50). -/
theorem eq_or_reserved_of_addressMap_eq {a b : PortAddr} (h : addressMap a = addressMap b) :
    a = b ∨ addressMap b = .reserved := by
  have ha := isAddressOf_of_eq h
  have hb := isAddressOf_addressMap b
  cases hr : addressMap b with
  | reserved => exact .inr rfl
  | h | buf | k =>
    rw [hr] at ha hb
    exact .inl (BitVec.eq_of_toNat_eq ((of_decide_eq_true ha).trans (of_decide_eq_true hb).symm))
  | _ =>
    rw [hr] at ha hb
    exact .inl ((of_decide_eq_true ha).trans (of_decide_eq_true hb).symm)

/-! ### The byte swap of the windows -/

/-- The same BSWAP on write and on read gives the word back (20_memory rule R59). -/
theorem windowData_windowData {s t : State} (h : t.bswap = s.bswap) (v : Word) : windowData t (windowData s v) = v := by
  cases hs : s.bswap <;> simp [windowData, h, hs]

/-- Byte m of a swapped word, from the low end, is byte m of the word, from the high end. -/
theorem extractLsb'_bswap32 (w : Word) {m : Nat} (hm : m < 4) :
    (bswap32 w).extractLsb' (8 * m) 8 = byteOfWord w m := by
  obtain ⟨h0, h1, h2, h3⟩ := extract_append_four (w.extractLsb' 0 8) (w.extractLsb' 8 8) (w.extractLsb' 16 8)
    (w.extractLsb' 24 8)
  match m, hm with
  | 0, _ => exact h0
  | 1, _ => exact h1
  | 2, _ => exact h2
  | 3, _ => exact h3

/-- Byte 4j + m of a block is byte m of its word j (00_scope rule R13). -/
theorem blockByte_eq_byteOfWord (b : Vector Word 16) (j : Fin 16) {m : Nat} (hm : m < 4) :
    Spec.blockByte b ⟨4 * j + m, by omega⟩ = byteOfWord b[j] m := by
  have hdiv : (4 * j.val + m) / 4 = j := by omega
  have hmod : (4 * j.val + m) % 4 = m := by omega
  simp only [Spec.blockByte, byteOfWord, hdiv, hmod, Fin.getElem_fin]

/-- The bytes 4j to 4j + 3 of a block are the bytes of its big-endian word j (10_state rule R30). -/
theorem blockByte_of_eq_bigEndian32 {b : Vector Word 16} {j : Fin 16} {b0 b1 b2 b3 : Byte}
    (h : b[j] = bigEndian32 b0 b1 b2 b3) :
    Spec.blockByte b ⟨4 * j, by omega⟩ = b0 ∧ Spec.blockByte b ⟨4 * j + 1, by omega⟩ = b1 ∧
      Spec.blockByte b ⟨4 * j + 2, by omega⟩ = b2 ∧ Spec.blockByte b ⟨4 * j + 3, by omega⟩ = b3 := by
  have hbyte (m : Nat) (hm : m < 4) :
      Spec.blockByte b ⟨4 * j + m, by omega⟩ = byteOfWord (bigEndian32 b0 b1 b2 b3) m :=
    h ▸ blockByte_eq_byteOfWord b j hm
  obtain ⟨h0, h1, h2, h3⟩ := byteOfWord_bigEndian32 b0 b1 b2 b3
  exact ⟨(hbyte 0 (by decide)).trans h0, (hbyte 1 (by decide)).trans h1, (hbyte 2 (by decide)).trans h2,
    (hbyte 3 (by decide)).trans h3⟩

/-! ### Reads -/

theorem portRead_h (i : Fin 8) (s : State) :
    portRead (BitVec.ofNat 7 (0x08 + i)) s = windowData s s.h[i] := by
  rw [portRead, addressMap_h]; rfl

theorem portRead_buf (j : Fin 16) (s : State) :
    portRead (BitVec.ofNat 7 (0x10 + j)) s = windowData s s.buf[j] := by
  rw [portRead, addressMap_buf]; rfl

theorem portRead_k (i : Fin 64) (s : State) : portRead (BitVec.ofNat 7 (0x40 + i)) s = Rom.k i := by
  rw [portRead, addressMap_k]; rfl

theorem portRead_cfg (s : State) : portRead 0x03 s = if s.bswap then 1 else 0 := by
  change (BitVec.ofBool s.bswap).setWidth 32 = _
  cases s.bswap <;> rfl

theorem portRead_reserved {a : PortAddr} (s : State) (ha : addressMap a = .reserved) : portRead a s = 0 := by
  rw [portRead, ha]; rfl

/-- Settles O10: the register that the map names, address by address. -/
theorem portReadFollowsTheMap : Obligations.PortReadFollowsTheMap := fun s =>
  ⟨rfl, rfl, rfl, portRead_cfg s, rfl, rfl, fun i => portRead_h i s, fun j => portRead_buf j s, rfl, rfl, rfl, rfl,
    fun i => portRead_k i s, fun a ha => portRead_reserved s (addressMap_reserved a ha), fun _ => ⟨_, rfl, rfl⟩⟩

/-- Settles O14: a read of Hi is its window data, and the swap turns the order of the bytes round. -/
theorem digestBytesReadInOrder : Obligations.DigestBytesReadInOrder := by
  intro s i
  rw [portRead_h, windowData]
  constructor
  · intro hs
    rw [hs, if_neg Bool.false_ne_true]
  · intro hs m hm
    rw [if_pos hs]
    exact extractLsb'_bswap32 _ hm

/-! ### Writes -/

/-- Raising an error, as 60_exceptions rule R182 writes it. -/
theorem raiseError_eq_raised (e : ErrorKind) (s : State) : raiseError e s = Spec.raised (errorCode e) s := by
  cases herr : s.err with
  | true => rw [raiseError_of_err e herr, Spec.raised, if_pos herr, ← herr]
  | false => simp [raiseError, Spec.raised, herr]

theorem writtenState_of_readOnly {r : PortReg} (v : Word) (s : State) (hr : r.readOnly = true) :
    writtenState r v s = raiseError .badAccess s := by
  cases r with
  | id | res | k | reserved => rfl
  | _ => cases hr

theorem portWrite_h (i : Fin 8) (v : Word) (s : State) :
    portWrite (BitVec.ofNat 7 (0x08 + i)) v s = .next { s with h := s.h.set i (windowData s v), done := false } := by
  rw [portWrite, addressMap_h]; rfl

theorem portWrite_buf (j : Fin 16) (v : Word) (s : State) :
    portWrite (BitVec.ofNat 7 (0x10 + j)) v s = .next { s with buf := s.buf.set j (windowData s v) } := by
  rw [portWrite, addressMap_buf]; rfl

/-- A write of an address that cannot be written is a BAD_ACCESS and nothing else (20_memory rule R55). -/
theorem portWrite_of_notWritable {a : PortAddr} (v : Word) (s : State) (ha : Spec.NotWritable a) :
    portWrite a v s = .next (Spec.raised 2 s) := by
  have hr := readOnly_of_notWritable a ha
  have hcmd : addressMap a ≠ .cmd := fun h => by rw [h] at hr; cases hr
  rw [portWrite, writeReg_of_ne_cmd _ v s hcmd, writtenState_of_readOnly v s hr]
  exact congrArg _ (raiseError_eq_raised .badAccess s)

theorem portWrite_cmd_of_decode_ok {v : Word} {i : Instr} (s : State) (h : decode v = .ok i) :
    portWrite 0x01 v s = exec i s := by
  rw [portWrite_cmd, runCommand, h]

theorem portWrite_cmd_of_decode_error {v : Word} {e : DecodeReject} (s : State) (h : decode v = .error e) :
    portWrite 0x01 v s = .next (Spec.raised 1 s) := by
  rw [portWrite_cmd, runCommand, h]
  exact congrArg _ (raiseError_eq_raised .illegalCmd s)

/-- Settles O11: the register that the map names, address by address. -/
theorem portWriteFollowsTheMap : Obligations.PortWriteFollowsTheMap := fun s v =>
  ⟨fun _ h => portWrite_cmd_of_decode_ok s h, fun _ h => portWrite_cmd_of_decode_error s h, rfl, rfl, rfl, rfl,
    fun i => portWrite_h i v s, fun j => portWrite_buf j v s, rfl, rfl, rfl,
    fun _ ha => portWrite_of_notWritable v s ha⟩

/-! ### A write and then a read -/

/-- Settles O12, for an H word and for a BUF word. -/
theorem windowWordReadsBackAsWritten : Obligations.WindowWordReadsBackAsWritten := by
  intro a v s ha
  rcases inSwappedWindow_cases a ha with ⟨i, rfl⟩ | ⟨j, rfl⟩
  · refine ⟨_, portWrite_h i v s, rfl, ?_, ?_, ?_⟩
    · rw [portRead_h, Fin.getElem_fin, Vector.getElem_set_self]
      exact windowData_windowData rfl v
    · intro k hk
      obtain rfl : k = i := Fin.ext (by rw [BitVec.toNat_ofNat] at hk; omega)
      exact Vector.getElem_set_self _
    · intro k hk
      rw [BitVec.toNat_ofNat] at hk
      omega
  · refine ⟨_, portWrite_buf j v s, rfl, ?_, ?_, ?_⟩
    · rw [portRead_buf, Fin.getElem_fin, Vector.getElem_set_self]
      exact windowData_windowData rfl v
    · intro k hk
      rw [BitVec.toNat_ofNat] at hk
      omega
    · intro k hk
      obtain rfl : k = j := Fin.ext (by rw [BitVec.toNat_ofNat] at hk; omega)
      exact Vector.getElem_set_self _

/-- Settles O13: the swap of the little-endian word is the big-endian word, whose bytes are the block's. -/
theorem littleEndianWriteIsCanonical : Obligations.LittleEndianWriteIsCanonical := by
  intro j b0 b1 b2 b3 s hs
  refine ⟨_, portWrite_buf j _ s, ?_⟩
  have hword : (s.buf.set j (windowData s (b3 ++ b2 ++ b1 ++ b0)))[j] = bigEndian32 b0 b1 b2 b3 := by
    rw [Fin.getElem_fin, Vector.getElem_set_self, windowData, if_pos hs, bswap32_bytes, bigEndian32]
  exact ⟨hword, blockByte_of_eq_bigEndian32 hword⟩

/-! ### What a write leaves alone -/

/-- A write of LEN_LO keeps what LEN_HI reads (10_state rule R28). -/
theorem readReg_lenHi_writtenState_lenLo (v : Word) (s : State) :
    readReg .lenHi (writtenState .lenLo v s) = readReg .lenHi s :=
  BitVec.extractLsb'_append_eq_left

/-- A write of LEN_HI keeps what LEN_LO reads (10_state rule R28). -/
theorem readReg_lenLo_writtenState_lenHi (v : Word) (s : State) :
    readReg .lenLo (writtenState .lenHi v s) = readReg .lenLo s :=
  BitVec.extractLsb'_append_eq_right

section
variable {r q : PortReg} {v : Word} {s : State}

/-- A write of another register keeps an H word. -/
theorem writtenState_h_getElem {i : Fin 8} (hne : r ≠ .h i) : (writtenState r v s).h[i] = s.h[i] := by
  by_cases h : ∃ k, r = .h k
  · obtain ⟨k, rfl⟩ := h
    have hki : k.val ≠ i := fun hk => hne (congrArg PortReg.h (Fin.ext hk))
    exact Vector.getElem_set_ne k.isLt i.isLt hki
  · rw [not_imp_comm.1 writtenState_h_changed h]

/-- A write of another register keeps a BUF word. -/
theorem writtenState_buf_getElem {j : Fin 16} (hne : r ≠ .buf j) : (writtenState r v s).buf[j] = s.buf[j] := by
  by_cases h : ∃ k, r = .buf k
  · obtain ⟨k, rfl⟩ := h
    have hkj : k.val ≠ j := fun hk => hne (congrArg PortReg.buf (Fin.ext hk))
    exact Vector.getElem_set_ne k.isLt j.isLt hkj
  · rw [not_imp_comm.1 writtenState_buf_changed h]

/-- A write of a register other than CFG keeps how the windows are swapped. -/
theorem windowData_writtenState (hr : r ≠ .cfg) (x : Word) : windowData (writtenState r v s) x = windowData s x := by
  rw [windowData, not_imp_comm.1 writtenState_bswap_changed hr, windowData]

/-- A register other than STATUS reads as before after a write of another one, unless it is a window word and the write
is to CFG. -/
theorem readReg_writtenState_of_ne (hne : r ≠ q) (hstatus : q ≠ .status) (hcfg : r = .cfg → q.swapped = false) :
    readReg q (writtenState r v s) = readReg q s := by
  have cfgKept (hq : q.swapped = true) : r ≠ .cfg := fun hr => by rw [hcfg hr] at hq; cases hq
  cases q with
  | id | cmd | k | reserved => rfl
  | status => exact absurd rfl hstatus
  | cfg => exact congrArg (fun b => (BitVec.ofBool b).setWidth 32) (not_imp_comm.1 writtenState_bswap_changed hne)
  | opx => exact not_imp_comm.1 writtenState_opx_changed hne
  | opy => exact not_imp_comm.1 writtenState_opy_changed hne
  | opz => exact not_imp_comm.1 writtenState_opz_changed hne
  | res => exact writtenState_res r v s
  | h i =>
    exact (windowData_writtenState (cfgKept rfl) _).trans (congrArg (windowData s) (writtenState_h_getElem hne))
  | buf j =>
    exact (windowData_writtenState (cfgKept rfl) _).trans (congrArg (windowData s) (writtenState_buf_getElem hne))
  | lenLo =>
    by_cases hr : r = .lenHi
    · subst hr
      exact readReg_lenLo_writtenState_lenHi v s
    · exact congrArg (BitVec.extractLsb' 0 32) (not_imp_comm.1 writtenState_len_changed (not_or.2 ⟨hne, hr⟩))
  | lenHi =>
    by_cases hr : r = .lenLo
    · subst hr
      exact readReg_lenHi_writtenState_lenLo v s
    · exact congrArg (BitVec.extractLsb' 32 32) (not_imp_comm.1 writtenState_len_changed (not_or.2 ⟨hr, hne⟩))

end

/-- A second equal write of a register changes nothing. -/
theorem writtenState_writtenState (r : PortReg) (v : Word) (s : State) :
    writtenState r v (writtenState r v s) = writtenState r v s := by
  cases r with
  | cmd | cfg | opx | opy | opz => rfl
  | id | res | k | reserved => exact raiseError_of_err .badAccess (raiseError_err s _)
  | status => by_cases hv : clearsError v = true <;> simp [writtenState, hv, clearError]
  | lenLo =>
    have hkept := readReg_lenHi_writtenState_lenLo v s
    exact congrArg (fun x : Word => setDone false (setLen (x ++ v) s)) hkept
  | lenHi =>
    have hkept := readReg_lenLo_writtenState_lenHi v s
    exact congrArg (fun x : Word => setDone false (setLen (v ++ x) s)) hkept
  | h i => exact congrArg (fun x => setDone false (setHash x s)) (Vector.set_set _ i.isLt)
  | buf j => exact congrArg (fun x => { s with buf := x }) (Vector.set_set _ j.isLt)

/-- Settles O15: two addresses name two registers, or the other one is reserved and reads 0. -/
theorem writeLeavesOtherAddressesAlone : Obligations.WriteLeavesOtherAddressesAlone := by
  intro a b v s ha hba hstatus hcfg
  refine ⟨_, portWrite_of_ne_cmd a v s ha, ?_⟩
  by_cases hmap : addressMap a = addressMap b
  · rcases eq_or_reserved_of_addressMap_eq hmap with rfl | hb
    · exact absurd rfl hba
    · rw [portRead_reserved _ hb, portRead_reserved _ hb]
  · refine readReg_writtenState_of_ne hmap (fun hb => ?_) fun hr => ?_
    · exact hstatus (by simpa [isAddressOf] using isAddressOf_of_eq hb)
    · have hacfg : a = 0x03 := by simpa [isAddressOf] using isAddressOf_of_eq hr
      exact Bool.eq_false_iff.2 fun hb => hcfg hacfg (inSwappedWindow_of_swapped b hb)

/-- Settles O16, register by register. -/
theorem writesAreIdempotent : Obligations.WritesAreIdempotent := fun a v s ha =>
  ⟨_, portWrite_of_ne_cmd a v s ha, by rw [portWrite_of_ne_cmd a v _ ha, writtenState_writtenState]⟩

end Sys2Proof.Machine
end

section
/-! PROOF. Command words (30_encoding). The idea: every row of the opcode map fixes the whole OPCODE field, and no two rows
fix the same one, so decoding a word that some row selects gives that row's command; a word that no row selects is rejected
by name. -/

namespace Sys2Proof

/-! ### The row that a word selects -/

theorem opcodeField_and (v w : Word) : opcodeField (v &&& w) = opcodeField v &&& opcodeField w :=
  BitVec.extractLsb'_and

/-- Every row looks at the whole OPCODE field (30_encoding rule R82). -/
theorem opcodeField_mask : ∀ row ∈ opcodeMap, opcodeField row.mask = BitVec.allOnes 8 := by decide

/-- Each row has an opcode of its own (30_encoding rule R82). -/
theorem nodup_opcodes : (opcodeMap.map fun row => opcodeField row.pattern).Nodup := by decide

/-- A row selects words of its own opcode only. -/
theorem opcodeField_of_selected {w : Word} {row : OpcodeRow} (hrow : row ∈ opcodeMap)
    (hsel : w &&& row.mask = row.pattern) : opcodeField w = opcodeField row.pattern := by
  rw [← hsel, opcodeField_and, opcodeField_mask row hrow, BitVec.and_allOnes]

/-- No word selects two rows (30_encoding rule R83). -/
theorem selected_unique {w : Word} {r r' : OpcodeRow} (hr : r ∈ opcodeMap) (hr' : r' ∈ opcodeMap)
    (hsel : w &&& r.mask = r.pattern) (hsel' : w &&& r'.mask = r'.pattern) : r = r' :=
  List.inj_on_of_nodup_map nodup_opcodes hr hr'
    ((opcodeField_of_selected hr hsel).symm.trans (opcodeField_of_selected hr' hsel'))

/-- A word that a row selects decodes to the row's command with the word's ARG. -/
theorem decode_of_selected {w : Word} {row : OpcodeRow} (hrow : row ∈ opcodeMap) (hsel : w &&& row.mask = row.pattern) :
    decode w = .ok (row.build (argField w)) := by
  unfold decode
  split
  · next found hfound =>
    have hsel' := List.find?_some hfound
    rw [selected_unique (List.mem_of_find?_eq_some hfound) hrow (beq_iff_eq.1 hsel') hsel]
  · next hnone => exact absurd (beq_iff_eq.2 hsel) (List.find?_eq_none.1 hnone row hrow)

/-! ### The word of a command -/

@[simp] theorem opcodeField_encode (i : Instr) : opcodeField (encode i) = opcode i := opcodeField_fields _ _ _

@[simp] theorem argField_encode (i : Instr) : argField (encode i) = argOf i := argField_fields _ _ _

@[simp] theorem rsvField_encode (i : Instr) : rsvField (encode i) = 0 := rsvField_fields _ _ _

/-- The word of a well-formed command selects the command's row. -/
theorem exists_row_of_wf {i : Instr} (hi : i.wf = true) :
    ∃ row ∈ opcodeMap, encode i &&& row.mask = row.pattern ∧ row.build (argOf i) = i := by
  have row (m : Nat) (hm : m < 13) (hsel : encode i &&& (opcodeMap[m]'hm).mask = (opcodeMap[m]'hm).pattern)
      (hbuild : (opcodeMap[m]'hm).build (argOf i) = i) :
      ∃ row ∈ opcodeMap, encode i &&& row.mask = row.pattern ∧ row.build (argOf i) = i :=
    ⟨_, List.getElem_mem hm, hsel, hbuild⟩
  have hr := rsvField_encode i
  have ho := opcodeField_encode i
  have ha := argField_encode i
  cases i with
  | init => exact row 0 (by decide) ((masked_noArg _ 0x01).2 ⟨hr, ha, ho⟩) rfl
  | compress => exact row 1 (by decide) ((masked_noArg _ 0x02).2 ⟨hr, ha, ho⟩) rfl
  | block => exact row 2 (by decide) ((masked_noArg _ 0x03).2 ⟨hr, ha, ho⟩) rfl
  | final r => exact row 3 (by decide) ((masked_arg6 _ 0x04).2 ⟨hr, ho⟩) rfl
  | rotr n => exact row 4 (by decide) ((masked_arg5 _ 0x10).2 ⟨hr, ha ▸ of_decide_eq_true hi, ho⟩) rfl
  | shr n => exact row 5 (by decide) ((masked_arg5 _ 0x11).2 ⟨hr, ha ▸ of_decide_eq_true hi, ho⟩) rfl
  | ch => exact row 6 (by decide) ((masked_noArg _ 0x12).2 ⟨hr, ha, ho⟩) rfl
  | maj => exact row 7 (by decide) ((masked_noArg _ 0x13).2 ⟨hr, ha, ho⟩) rfl
  | bsig0 => exact row 8 (by decide) ((masked_noArg _ 0x14).2 ⟨hr, ha, ho⟩) rfl
  | bsig1 => exact row 9 (by decide) ((masked_noArg _ 0x15).2 ⟨hr, ha, ho⟩) rfl
  | ssig0 => exact row 10 (by decide) ((masked_noArg _ 0x16).2 ⟨hr, ha, ho⟩) rfl
  | ssig1 => exact row 11 (by decide) ((masked_noArg _ 0x17).2 ⟨hr, ha, ho⟩) rfl
  | schedw n => exact row 12 (by decide) ((masked_arg6 _ 0x18).2 ⟨hr, ho⟩) rfl

theorem decode_encode_of_wf {i : Instr} (hi : i.wf = true) : decode (encode i) = .ok i := by
  obtain ⟨row, hrow, hsel, hbuild⟩ := exists_row_of_wf hi
  rw [decode_of_selected hrow hsel, argField_encode, hbuild]

/-- Settles O3: a word is its three fields, and decoding determines each of them. -/
theorem encodeInvertsDecode : Obligations.EncodeInvertsDecode := by
  intro w i h
  obtain ⟨hr, ho, ha, hwf⟩ := decode_fields h
  exact ⟨by rw [← word_eq_fields w, hr, ho, ha, encode], hwf⟩

/-- The word of a command is illegal exactly when its ARG does not fit (30_encoding rules R81, R83). -/
theorem illegalWord_encode_iff (i : Instr) : Spec.IllegalWord (encode i) ↔ i.wf = false := by
  have ho : (encode i).extractLsb' 0 8 = opcode i := opcodeField_encode i
  have ha : (encode i).extractLsb' 8 6 = argOf i := argField_encode i
  have hr : (encode i).extractLsb' 14 18 = 0 := rsvField_encode i
  have arg5 : ∀ n : Arg, n.getLsbD 5 = true ↔ ¬ n.toNat < 32 := by decide
  simp only [Spec.IllegalWord, ho, ha, hr, arg5]
  cases i <;> simp [opcode, argOf, Instr.wf]

/-- A word that decodes is legal field by field (30_encoding rule R83). -/
theorem not_illegalWord_of_decode_ok {w : Word} {i : Instr} (h : decode w = .ok i) : ¬ Spec.IllegalWord w := by
  obtain ⟨rfl, hwf⟩ := encodeInvertsDecode w i h
  rw [illegalWord_encode_iff, hwf]
  exact Bool.noConfusion

/-- An illegal word is rejected, by the name that `rejectReason` gives (30_encoding rule R83). -/
theorem decode_of_illegalWord {w : Word} (illegal : Spec.IllegalWord w) : decode w = .error (rejectReason w) := by
  cases h : decode w with
  | ok i => exact absurd illegal (not_illegalWord_of_decode_ok h)
  | error r =>
    unfold decode at h
    split at h <;> cases h
    rfl

/-- The word of an ill-formed command has ARG[5] = 1 in a ROTR or SHR, and is rejected by that name (30_encoding rule
R81). -/
theorem rejectReason_encode_of_not_wf {i : Instr} (hi : i.wf = false) : rejectReason (encode i) = .argTooLarge := by
  rw [rejectReason, opcodeField_encode, rsvField_encode]
  cases i with
  | rotr | shr => rfl
  | _ => cases hi

/-- Settles O2: a well-formed command's word selects its row; the word of an ill-formed one is illegal. -/
theorem decodeInvertsEncode : Obligations.DecodeInvertsEncode := by
  intro i
  cases hi : i.wf with
  | true => exact decode_encode_of_wf hi
  | false =>
    rw [decode_of_illegalWord ((illegalWord_encode_iff i).2 hi), rejectReason_encode_of_not_wf hi,
      if_neg Bool.false_ne_true]

/-- Settles O1: the decoder run on each word. -/
theorem sampleCommandWordsDecode : Obligations.SampleCommandWordsDecode :=
  ⟨rfl, rfl, rfl, rfl, rfl, rfl, rfl, rfl, rfl, rfl, rfl, rfl⟩

end Sys2Proof

namespace Sys2Proof.Machine

/-! ### A write of CMD -/

/-- Settles O4: a selected row is the one that decoding finds, and no row is selected exactly by the illegal words. -/
theorem commandWriteRunsItsRow : Obligations.CommandWriteRunsItsRow := by
  intro w s
  refine ⟨fun row hrow hsel => ?_, fun unselected => ?_, ⟨illegalWord_of_unselected, fun illegal row hrow hsel => ?_⟩,
    fun m n hm hn => ?_⟩
  · exact portWrite_cmd_of_decode_ok s (decode_of_selected hrow hsel)
  · exact portWrite_cmd_of_decode_error s (decode_of_illegalWord (illegalWord_of_unselected unselected))
  · exact not_illegalWord_of_decode_ok (decode_of_selected hrow hsel) illegal
  · exact Fin.ext (nodup_opcodes.of_map.getElem_inj_iff.1
      (selected_unique (List.getElem_mem m.isLt) (List.getElem_mem n.isLt) hm hn))

/-! ### The host's shorthands -/

/-- A write of a register does not look at what the host asks for next (log entry 1). -/
theorem writtenState_with_pending (r : PortReg) (v : Word) (s : State) (rest : List PortEvent) :
    writtenState r v { s with pending := rest } = { writtenState r v s with pending := rest } := by
  cases r with
  | status => simp only [writtenState]; split <;> rfl
  | id | res | k | reserved => simp only [writtenState, raiseError]; split <;> rfl
  | _ => rfl

/-- One write of a register other than CMD, as the host's event. -/
theorem takes_wr {a : PortAddr} (ha : a ≠ 0x01) (v : Word) (s : State) :
    Takes [wr a v] s (writtenState (addressMap a) v s) :=
  takes_cons (fun rest => (portWrite_of_ne_cmd a v _ ha).trans (congrArg _ (writtenState_with_pending _ v s rest)))
    (takes_nil _)

/-- LOADOPS writes the three operands (30_encoding rule R88). -/
theorem takes_loadOps (x y z : Word) (s : State) :
    Takes (loadOps x y z) s { s with opx := x, opy := y, opz := z } :=
  takes_append (takes_wr (by decide) x s) (takes_append (takes_wr (by decide) y _) (takes_wr (by decide) z _))

/-- SETLEN writes the two halves of LEN, and each write clears DONE (30_encoding rule R88, 10_state rule R39). -/
theorem takes_setLenEvents (c : Count) (s : State) : Takes (setLenEvents c) s { s with len := c, done := false } := by
  have halves (hi : Word) : c.extractLsb' 32 32 ++ (hi ++ c.extractLsb' 0 32 : Count).extractLsb' 0 32 = c := by
    rw [BitVec.extractLsb'_append_eq_right, BitVec.extractLsb'_append_extractLsb'_eq_extractLsb' (by rfl),
      BitVec.extractLsb'_eq_self]
  have run : Takes (setLenEvents c) s
      (writtenState .lenHi (c.extractLsb' 32 32) (writtenState .lenLo (c.extractLsb' 0 32) s)) :=
    takes_append (takes_wr (a := 0x04) (by decide) _ s) (takes_wr (a := 0x05) (by decide) _ _)
  have written : writtenState .lenHi (c.extractLsb' 32 32) (writtenState .lenLo (c.extractLsb' 0 32) s) =
      { s with len := c, done := false } :=
    congrArg (fun l => ({ s with len := l, done := false } : State)) (halves _)
  exact written ▸ run

/-- CLRERR writes 1 to STATUS.ERR (30_encoding rule R88, 10_state rule R26). -/
theorem takes_clrErr (s : State) : Takes clrErr s { s with err := false, errcode := 0 } :=
  takes_wr (by decide) 0x00000002 s

/-- Settles O44: shorthand by shorthand, as writes of registers. -/
theorem shorthandsLeaveTheirRegisters : Obligations.ShorthandsLeaveTheirRegisters := fun s rest b x y z c =>
  ⟨fun hs => takes_loadBuf b s hs rest, takes_loadOps x y z s rest, takes_setLenEvents c s rest, takes_clrErr s rest⟩

end Sys2Proof.Machine
end

section
/-! PROOF. The function commands ROTR, SHR, CH, MAJ, BSIG0, BSIG1, SSIG0 and SSIG1 (40_mixing_functions). The idea: a legal
word whose OPCODE takes no argument is 0 but for its OPCODE, so any other word with that OPCODE is illegal; what a command
writes to RES is the law of its mixing function (`Laws/Functions`). -/

namespace Sys2Proof.Machine

/-! ### The words of the commands -/

/-- `op | (arg << 8)` is the word with these two fields and RSV = 0 (30_encoding rule R80). -/
theorem commandWord_eq_encode (i : Instr) : Spec.commandWord ((opcode i).setWidth 32) (argOf i) = encode i := by
  apply BitVec.eq_of_getLsbD_eq
  intro j hj
  simp only [Spec.commandWord, encode, BitVec.getLsbD_or, BitVec.getLsbD_shiftLeft, BitVec.getLsbD_setWidth,
    BitVec.getLsbD_append]
  by_cases hop : j < 8
  · simp [hop, hj]
  · have hhigh : (opcode i).getLsbD j = false := BitVec.getLsbD_of_ge _ _ (Nat.le_of_not_lt hop)
    by_cases harg : j - 8 < 6
    · simp [hop, hj, hhigh, harg, show j - 8 < 32 by omega]
    · simp [hop, hj, hhigh, harg, BitVec.getLsbD_of_ge (argOf i) (j - 8) (Nat.le_of_not_lt harg)]

/-- The word of an ill-formed command, written to CMD, is ILLEGAL_CMD and nothing else (30_encoding rules R81, R83). -/
theorem portWrite_cmd_encode_of_not_wf {i : Instr} (hi : i.wf = false) (s : State) :
    portWrite 0x01 (encode i) s = .next (Spec.raised 1 s) :=
  portWrite_cmd_of_decode_error s (decode_of_illegalWord ((illegalWord_encode_iff i).2 hi))

/-- A legal word with an OPCODE that takes no argument has ARG = 0 and RSV = 0 (30_encoding rules R80, R83). -/
theorem eq_of_legal_of_noArg {w : Word} (legal : ¬ Spec.IllegalWord w)
    (noArg : opcodeField w ∉ [0x04, 0x10, 0x11, 0x18]) : w = (0 : BitVec 18) ++ (0 : Arg) ++ opcodeField w := by
  simp only [List.mem_cons, List.not_mem_nil, or_false, not_or] at noArg
  obtain ⟨final, rotr, shr, schedw⟩ := noArg
  obtain ⟨hr, hop | ⟨-, hop⟩ | ⟨ha, -⟩⟩ := fields_of_not_illegalWord legal
  · exact (hop.elim final schedw).elim
  · exact (hop.elim rotr shr).elim
  · conv_lhs => rw [← word_eq_fields w, hr, ha]

/-- The word of a command without argument is the only legal word with its OPCODE (30_encoding rules R80, R83). -/
theorem onlyWordOf_of_noArg {op : Word} {i : Instr} (hdec : decode op = .ok i)
    (noArg : opcodeField op ∉ [0x04, 0x10, 0x11, 0x18]) : Spec.OnlyWordOf op i := by
  refine ⟨hdec, fun w s (hw : opcodeField w = opcodeField op) hne => ?_⟩
  have illegal : Spec.IllegalWord w := by
    by_contra legal
    apply hne
    rw [eq_of_legal_of_noArg legal (hw ▸ noArg), hw, ← eq_of_legal_of_noArg (not_illegalWord_of_decode_ok hdec) noArg]
  exact portWrite_cmd_of_decode_error s (decode_of_illegalWord illegal)

/-! ### What the commands write -/

/-- Settles O23: the bit form of the rotation (40_mixing_functions rule R101). -/
theorem rotrRotatesRight : Obligations.RotrRotatesRight := by
  have word (n : Arg) : Spec.commandWord 0x10 n = encode (.rotr n) := commandWord_eq_encode (.rotr n)
  refine ⟨fun n s hn => ⟨?_, rotr s.opx n.toNat, execShift_of_lt rotr n s hn, fun j => rotr_getLsbD _ _ j hn⟩,
    fun n s hn => ?_⟩
  · exact word n ▸ decode_encode_of_wf (decide_eq_true hn)
  · exact word n ▸ portWrite_cmd_encode_of_not_wf (i := .rotr n) (decide_eq_false hn.not_gt) s

/-- Settles O24: a shift right is a division (40_mixing_functions rule R102). -/
theorem shrDividesByPowerOfTwo : Obligations.ShrDividesByPowerOfTwo := by
  have word (n : Arg) : Spec.commandWord 0x11 n = encode (.shr n) := commandWord_eq_encode (.shr n)
  refine ⟨fun n s hn => ⟨?_, shr s.opx n.toNat, execShift_of_lt shr n s hn, shr_toNat _ _⟩, fun n s hn => ?_⟩
  · exact word n ▸ decode_encode_of_wf (decide_eq_true hn)
  · exact word n ▸ portWrite_cmd_encode_of_not_wf (i := .shr n) (decide_eq_false hn.not_gt) s

/-- Settles O25: the formula, and what it chooses at each bit (40_mixing_functions rule R103). -/
theorem chChoosesBitByBit : Obligations.ChChoosesBitByBit :=
  ⟨onlyWordOf_of_noArg rfl (by decide), fun s =>
    ⟨choose s.opx s.opy s.opz, rfl, rfl, choose_getLsbD s.opx s.opy s.opz⟩⟩

/-- The majority of three bits is 1 exactly when two of them are. -/
theorem majority_bit_iff (a b c : Bool) : (a && b || a && c || b && c) = true ↔ 2 ≤ a.toNat + b.toNat + c.toNat := by
  revert a b c; decide

/-- Settles O26: the formula, and its bits as majorities (40_mixing_functions rule R104). -/
theorem majTakesMajorityBitByBit : Obligations.MajTakesMajorityBitByBit := by
  refine ⟨onlyWordOf_of_noArg rfl (by decide), fun s => ⟨majority s.opx s.opy s.opz, rfl, rfl, fun j _ => ?_⟩⟩
  rw [majority_getLsbD, majority_bit_iff]

/-- Settles O27: by the library's rotation (40_mixing_functions rules R105, R106). -/
theorem bigSigmasCombineRotations : Obligations.BigSigmasCombineRotations :=
  ⟨onlyWordOf_of_noArg rfl (by decide), onlyWordOf_of_noArg rfl (by decide), fun s =>
    ⟨bigSigma0_eq s.opx ▸ rfl, bigSigma1_eq s.opx ▸ rfl⟩⟩

/-- Settles O28: by the library's rotation and shift (40_mixing_functions rules R107, R108). -/
theorem smallSigmasCombineRotationsAndShift : Obligations.SmallSigmasCombineRotationsAndShift :=
  ⟨onlyWordOf_of_noArg rfl (by decide), onlyWordOf_of_noArg rfl (by decide), fun s =>
    ⟨smallSigma0_eq s.opx ▸ rfl, smallSigma1_eq s.opx ▸ rfl⟩⟩

end Sys2Proof.Machine
end

section
/-! PROOF. The constants of the ROMs (40_mixing_functions rules R100, R109). The idea: the primes below 312, in order, are
found by trial division and are the first 64 primes; the library's integer root of p·2^96 or p·2^64 is the scaled root of
the rules, and each ROM word is what that root leaves modulo 2^32. -/

namespace Sys2Proof.Machine

/-! ### The first 64 primes -/

/-- The first 64 primes. -/
def firstPrimes : List Nat :=
  [2, 3, 5, 7, 11, 13, 17, 19, 23, 29, 31, 37, 41, 43, 47, 53, 59, 61, 67, 71, 73, 79, 83, 89, 97, 101, 103, 107, 109, 113,
   127, 131, 137, 139, 149, 151, 157, 163, 167, 173, 179, 181, 191, 193, 197, 199, 211, 223, 227, 229, 233, 239, 241, 251,
   257, 263, 269, 271, 277, 281, 283, 293, 307, 311]

/-- Trial division by the numbers below b tells the primes below b². -/
theorem prime_iff_trialDivision {n b : Nat} (hn : n < b ^ 2) :
    n.Prime ↔ 2 ≤ n ∧ ∀ m < b, m ∣ n → m = 1 ∨ m = n := by
  constructor
  · intro hp
    exact ⟨hp.two_le, fun m _ hm => hp.eq_one_or_self_of_dvd m hm⟩
  · rintro ⟨h2, divisors⟩
    refine Nat.prime_def_le_sqrt.2 ⟨h2, fun m hm hle hdvd => ?_⟩
    have root_lt : n.sqrt < n := Nat.sqrt_lt_self h2
    rcases divisors m (hle.trans_lt (Nat.sqrt_lt'.2 hn)) hdvd with h1 | hself <;> omega

/-- The first 64 primes are the primes below 312, in order: trial division by the numbers below 18. -/
theorem filter_prime_range : (List.range 312).filter (fun n => decide n.Prime) = firstPrimes := by
  rw [List.filter_congr (q := fun n => decide (2 ≤ n ∧ ∀ m < 18, m ∣ n → m = 1 ∨ m = n))]
  · decide +kernel
  · intro n hn
    exact decide_eq_decide.2 (prime_iff_trialDivision ((List.mem_range.1 hn).trans (by decide)))

/-- Of the numbers below n with property p, in order, the one at place t has t of them below it. -/
theorem count_getElem_filter_range (p : Nat → Prop) [DecidablePred p] (n t : Nat)
    (ht : t < ((List.range n).filter p).length) : Nat.count p ((List.range n).filter p)[t] = t := by
  induction n with
  | zero => cases ht
  | succ n ih =>
    have hcount : ((List.range n).filter p).length = Nat.count p n := List.countP_eq_length_filter.symm
    simp only [List.range_succ, List.filter_append] at ht ⊢
    by_cases hlt : t < ((List.range n).filter p).length
    · rw [List.getElem_append_left hlt]
      exact ih hlt
    · by_cases hp : p n
      · obtain rfl : t = ((List.range n).filter p).length := by simp [hp] at ht; omega
        simp [hp, hcount]
      · simp [hp] at ht
        omega

/-- Entry t is a prime, and t primes are below it. -/
theorem firstPrimes_prime_count (t : Nat) (ht : t < firstPrimes.length) :
    firstPrimes[t].Prime ∧ Nat.count Nat.Prime firstPrimes[t] = t := by
  revert ht
  rw [← filter_prime_range]
  intro ht
  exact ⟨of_decide_eq_true (List.mem_filter.1 (List.getElem_mem ht)).2, count_getElem_filter_range Nat.Prime 312 t ht⟩

/-! ### The roots -/

/-- The table of R100, word by word. -/
theorem toNat_k_eq_cubeRoot : ∀ t : Fin 64, (Rom.k t).toNat = Nat.nthRoot 3 (firstPrimes[t]'t.isLt * 2 ^ 96) % 2 ^ 32 := by
  decide +kernel

/-- The table of R109, word by word. -/
theorem toNat_iv_eq_squareRoot : ∀ i : Fin 8,
    Rom.iv[i].toNat = Nat.nthRoot 2 (firstPrimes[i]'(i.isLt.trans (by decide)) * 2 ^ 64) % 2 ^ 32 := by
  decide +kernel

/-- Settles O41: the library's cube root of p·2^96. -/
theorem roundConstantsAreCubeRoots : Obligations.RoundConstantsAreCubeRoots := by
  intro t
  obtain ⟨hprime, hcount⟩ := firstPrimes_prime_count t t.isLt
  exact ⟨_, _, hprime, hcount, Nat.pow_nthRoot_le (.inl (by decide)), Nat.lt_pow_nthRoot_add_one (by decide) _,
    toNat_k_eq_cubeRoot t⟩

/-- Settles O42: the library's square root of p·2^64. -/
theorem initialHashIsSquareRoots : Obligations.InitialHashIsSquareRoots := by
  intro i
  obtain ⟨hprime, hcount⟩ := firstPrimes_prime_count i (i.isLt.trans (by decide))
  exact ⟨_, _, hprime, hcount, Nat.pow_nthRoot_le (.inl (by decide)), Nat.lt_pow_nthRoot_add_one (by decide) _,
    toNat_iv_eq_squareRoot i⟩

end Sys2Proof.Machine
end

section
/-! PROOF. The message schedule (41_message_schedule). The idea: the words of `schedule` obey rules R130 and R131, once σ0
and σ1 are written by the library's rotation; SCHEDW takes its word from that list. -/

namespace Sys2Proof.Machine

/-- The words of `schedule` are the message schedule of the block (41_message_schedule rules R130, R131). -/
theorem isSchedule_schedule (b : Vector Word 16) : Spec.IsSchedule b (fun i => (schedule b).getD i 0) := by
  refine ⟨fun j => getD_schedule_of_lt b j j.isLt, fun i hlo hhi => ?_⟩
  rw [← smallSigma1_eq, ← smallSigma0_eq]
  exact getD_schedule_of_ge b i hlo hhi

/-- A word with a reserved bit, written to CMD, is ILLEGAL_CMD and nothing else (30_encoding rule R83). -/
theorem portWrite_cmd_of_reservedBits {v : Word} (hv : v.extractLsb' 14 18 ≠ 0) (s : State) :
    portWrite 0x01 v s = .next (Spec.raised 1 s) :=
  portWrite_cmd_of_decode_error s (decode_of_illegalWord (.inr (.inl hv)))

/-- Settles O29: the words of `schedule` obey the rules, and SCHEDW reads word i of them. -/
theorem schedwWritesScheduleWord : Obligations.SchedwWritesScheduleWord := by
  intro s
  refine ⟨fun i => (schedule s.buf).getD i 0, isSchedule_schedule s.buf, fun i => ⟨?_, rfl, fun v _ hv => ?_⟩⟩
  · have word : Spec.commandWord 0x18 i = encode (.schedw i) := commandWord_eq_encode (.schedw i)
    exact word ▸ decode_encode_of_wf rfl
  · exact portWrite_cmd_of_reservedBits hv s

end Sys2Proof.Machine
end

section
/-! PROOF. Compression (42_compression). The idea: a schedule that obeys rules R130 and R131 is `schedule` on its 64 words,
and working registers that obey R141 before and after each of the 64 rounds end where `runRounds` ends; so rules R140 to
R142 have one result, and `compress` computes it. INIT, COMPRESS and BLOCK write it, or the IV, to H. -/

namespace Sys2Proof.Machine

/-! ### Compression is its rules -/

/-- Rules R130 and R131 fix the 64 words of a schedule. -/
theorem isSchedule_unique {b : Vector Word 16} {w w' : Nat → Word} (hw : Spec.IsSchedule b w) (hw' : Spec.IsSchedule b w')
    (i : Nat) (hi : i < 64) : w i = w' i := by
  obtain ⟨block, recurrence⟩ := hw
  obtain ⟨block', recurrence'⟩ := hw'
  induction i using Nat.strong_induction_on with
  | h i ih =>
    rcases Nat.lt_or_ge i 16 with hlo | hlo
    · exact (block ⟨i, hlo⟩).trans (block' ⟨i, hlo⟩).symm
    · rw [recurrence i hlo hi, recurrence' i hlo hi, ih (i - 2) (by omega) (by omega), ih (i - 7) (by omega) (by omega),
        ih (i - 15) (by omega) (by omega), ih (i - 16) (by omega) (by omega)]

/-- A round as R141 writes it, with its T1 and T2. -/
theorem compressRound_eq (k w : Word) (r : Working) :
    compressRound k w r = ⟨Spec.t1 k w r + Spec.t2 r, r.a, r.b, r.c, r.d + Spec.t1 k w r, r.e, r.f, r.g⟩ := by
  simp only [compressRound, Spec.t1, Spec.t2, bigSigma0_eq, bigSigma1_eq, choose, majority]

/-- Working registers that take each of the 64 rounds: the rounds left from round t on lead to the last of them. -/
theorem runRoundsFrom_eq_of_rounds {w : List Word} {r : Nat → Working} (hw : w.length = 64)
    (hr : ∀ t, t < 64 → r (t + 1) = compressRound (Rom.k t) (w.getD t 0) (r t)) (t : Nat) (ht : t ≤ 64) :
    runRoundsFrom t w (r t) = r 64 := by
  induction ht using Nat.decreasingInduction with
  | self => exact runRoundsFrom_of_ge 64 w (r 64) (Nat.le_refl 64)
  | of_succ t ht ih => rw [runRoundsFrom_of_lt t w (r t) ht (hw ▸ ht), ← hr t ht, ih]

/-- The working registers before round t of the compression of block `b` into hash state `x` (R140, R141). -/
def workingBefore (x : Vector Word 8) (b : Vector Word 16) : Nat → Working
  | 0 => loadWorking x
  | t + 1 => compressRound (Rom.k t) ((schedule b).getD t 0) (workingBefore x b t)

/-- Registers that start at the load of `x` and take each round with the schedule of `b` end in `compress x b`. -/
theorem accumulate_eq_compress {x : Vector Word 8} {b : Vector Word 16} {r : Nat → Working} (hload : r 0 = loadWorking x)
    (hr : ∀ t, t < 64 → r (t + 1) = compressRound (Rom.k t) ((schedule b).getD t 0) (r t)) :
    accumulate x (r 64) = compress x b := by
  rw [compress, ← runRoundsFrom_zero, ← hload, runRoundsFrom_eq_of_rounds (length_schedule b) hr 0 (Nat.zero_le 64)]

/-- The result of `compress` obeys the rules: its schedule and its working registers are what they ask for. -/
theorem compresses_compress (x : Vector Word 8) (b : Vector Word 16) : Spec.Compresses x b (compress x b) :=
  ⟨fun i => (schedule b).getD i 0, workingBefore x b, isSchedule_schedule b, rfl, fun _ _ => compressRound_eq _ _ _,
    (accumulate_eq_compress rfl fun _ _ => rfl).symm⟩

/-- The rules allow no other result. -/
theorem eq_compress_of_compresses {x : Vector Word 8} {b : Vector Word 16} {y : Vector Word 8}
    (h : Spec.Compresses x b y) : y = compress x b := by
  obtain ⟨w, r, hw, hload, hround, hy⟩ := h
  refine hy.trans (accumulate_eq_compress hload fun t ht => ?_)
  rw [hround t ht, ← compressRound_eq, isSchedule_unique hw (isSchedule_schedule b) t ht]

/-- Settles O30: `compress` obeys the rules, and they allow one result (42_compression rule R143). -/
theorem compressIsTheRules : Obligations.CompressIsTheRules := fun x b _ =>
  ⟨eq_compress_of_compresses, fun h => h ▸ compresses_compress x b⟩

/-! ### The commands -/

theorem exec_init (s : State) : exec .init s = .next { s with h := Rom.iv, len := 0, done := false } := rfl

theorem exec_compress (s : State) : exec .compress s = .next { s with h := compress s.h s.buf, done := false } := rfl

theorem exec_block (s : State) :
    exec .block s = .next { s with h := compress s.h s.buf, len := s.len + 64, done := false } := rfl

/-- Settles O31: what INIT writes does not depend on what it overwrites, so a second INIT writes the same. -/
theorem initStartsMessage : Obligations.InitStartsMessage :=
  ⟨onlyWordOf_of_noArg rfl (by decide), fun s => ⟨_, exec_init s, exec_init _, rfl⟩⟩

/-- Settles O32: the new H is `compress` of H and BUF, which obeys the rules of compression. -/
theorem compressUpdatesHash : Obligations.CompressUpdatesHash :=
  ⟨onlyWordOf_of_noArg rfl (by decide), fun s =>
    ⟨compress s.h s.buf, compresses_compress s.h s.buf, exec_compress s⟩⟩

/-- Settles O33: as COMPRESS, and LEN + 64 wraps as a 64-bit number. -/
theorem blockUpdatesHashAndLength : Obligations.BlockUpdatesHashAndLength :=
  ⟨onlyWordOf_of_noArg rfl (by decide), fun s =>
    ⟨compress s.h s.buf, s.len + 64, compresses_compress s.h s.buf, BitVec.toNat_add s.len 64, exec_block s⟩⟩

end Sys2Proof.Machine
end

section
/-! PROOF. Padding and framing (43_padding_framing). The idea: a hash state absorbs a string of bytes block by block, and
absorbing two strings one after the other is absorbing the one string they make. FINAL absorbs the tail bytes of BUF with
their padding; the full blocks of a message followed by these bytes are the padded message. -/

namespace Sys2Proof.Machine

/-! ### The bytes of the scratch blocks -/

/-- Byte k of BUF, as R161 reads it, is byte k of the block (10_state rule R30). -/
theorem tailByte_eq_blockByte (buf : Vector Word 16) (k : Fin 64) : tailByte buf k = Spec.blockByte buf k := by
  have word : buf.toList.getD (k / 4) 0 = buf[k.val / 4]'(by omega) := by
    simp [List.getD_eq_getElem?_getD, show k.val / 4 < 16 by omega]
  rw [tailByte, word, byteOfWord, Spec.blockByte]

theorem blockByte_words (blk : List Byte) (k : Fin 64) : Spec.blockByte (words blk) k = blk.getD k 0 :=
  byteOfWord_words blk k k.isLt

theorem tailByte_words (blk : List Byte) {k : Nat} (hk : k < 64) : tailByte (words blk) k = blk.getD k 0 :=
  (tailByte_eq_blockByte (words blk) ⟨k, hk⟩).trans (blockByte_words blk ⟨k, hk⟩)

/-- Bytes stored as words are read back as the tail (rule R161). -/
theorem map_tailByte_words {p : List Byte} (hp : p.length ≤ 64) :
    (List.range p.length).map (tailByte (words p)) = p := by
  refine List.ext_getElem (by simp) fun k _ hk => ?_
  rw [List.getElem_map, List.getElem_range, tailByte_words p (by omega), List.getD_eq_getElem p 0 hk]

/-- The words of a block do not depend on the bytes after it. -/
theorem words_append {p : List Byte} (q : List Byte) (hp : 64 ≤ p.length) : words (p ++ q) = words p := by
  have byte (k : Nat) (hk : k < 64) : (p ++ q).getD k 0 = p.getD k 0 := getD_append_of_lt (by omega)
  refine words_ext _ _ fun j hj => ?_
  rw [getElem_words, wordAt, byte _ (by omega), byte _ (by omega), byte _ (by omega), byte _ (by omega), wordAt]

theorem byteOfCount_bitLength (l : Count) (m : Nat) : byteOfCount (bitLength l) m = Spec.lengthByte l m := by
  rw [byteOfCount, bitLength, BitVec.mul_comm, Spec.lengthByte]

@[simp] theorem length_firstBlock (buf : Vector Word 16) (r : Nat) (l : Count) : (firstBlock buf r l).length = 64 := by
  rw [firstBlock]
  split
  · rw [List.length_append, length_scratch, length_lengthField]
  · exact length_scratch _ _ _

@[simp] theorem length_secondBlock (l : Count) : (secondBlock l).length = 64 := by
  rw [secondBlock, List.length_append, List.length_replicate, length_lengthField]

/-! ### FINAL -/

theorem exec_final (r : Arg) (s : State) :
    exec (.final r) s = .next { s with h := finalHash s r.toNat, len := messageLength s r.toNat, done := true } := rfl

theorem decode_commandWord_final (r : Arg) : decode (Spec.commandWord 0x04 r) = .ok (.final r) := by
  have word : Spec.commandWord 0x04 r = encode (.final r) := commandWord_eq_encode (.final r)
  exact word ▸ decode_encode_of_wf rfl

theorem toNat_messageLength (s : State) (r : Nat) : (messageLength s r).toNat = (s.len.toNat + r) % 2 ^ 64 := by
  rw [messageLength, BitVec.toNat_add, BitVec.toNat_ofNat, Nat.add_mod_mod]

theorem messageLength_zero (s : State) : messageLength s 0 = s.len := BitVec.add_zero s.len

/-- One compression when the length field fits after the tail (rule R164). -/
theorem finalHash_of_lt {s : State} {r : Nat} (hr : r < 56) :
    finalHash s r = compress s.h (words (firstBlock s.buf r (messageLength s r))) :=
  if_pos (decide_eq_true hr)

/-- Two compressions when it does not (rule R165). -/
theorem finalHash_of_ge {s : State} {r : Nat} (hr : 56 ≤ r) :
    finalHash s r = compress (compress s.h (words (firstBlock s.buf r (messageLength s r))))
      (words (secondBlock (messageLength s r))) :=
  if_neg (Bool.not_eq_true _ ▸ decide_eq_false hr.not_gt)

/-- Settles O34: the block is the first scratch block, byte by byte. -/
theorem finalPadsShortTailInOneBlock : Obligations.FinalPadsShortTailInOneBlock := by
  intro r s hr
  refine ⟨decode_commandWord_final r, messageLength s r.toNat,
    words (firstBlock s.buf r.toNat (messageLength s r.toNat)), finalHash s r.toNat, toNat_messageLength s r.toNat,
    fun k => ?_, ?_, exec_final r s⟩
  · rw [blockByte_words, getD_firstBlock_of_lt _ _ _ k hr k.isLt, tailByte_eq_blockByte, byteOfCount_bitLength]
  · rw [finalHash_of_lt hr]
    exact compresses_compress _ _

/-- Settles O35: the two blocks are the two scratch blocks, byte by byte. -/
theorem finalPadsLongTailInTwoBlocks : Obligations.FinalPadsLongTailInTwoBlocks := by
  intro r s hr
  refine ⟨decode_commandWord_final r, messageLength s r.toNat,
    words (firstBlock s.buf r.toNat (messageLength s r.toNat)), words (secondBlock (messageLength s r.toNat)), _,
    finalHash s r.toNat, toNat_messageLength s r.toNat, fun k => ?_, fun k => ?_, compresses_compress _ _, ?_, exec_final r s⟩
  · rw [blockByte_words, getD_firstBlock_of_ge _ _ _ k hr k.isLt, tailByte_eq_blockByte]
  · rw [blockByte_words, getD_secondBlock _ k k.isLt, byteOfCount_bitLength]
  · rw [finalHash_of_ge hr]
    exact compresses_compress _ _

/-- Settles O36: the first scratch block of an empty tail, word by word; LEN + 0 is LEN. -/
theorem finalOfEmptyTailStillPads : Obligations.FinalOfEmptyTailStillPads := by
  intro s
  refine ⟨finalHash s 0, ?_, ?_⟩
  · rw [finalHash_of_lt (by decide), words_firstBlock_zero, messageLength_zero, bitLength, BitVec.mul_comm 8 s.len]
    exact compresses_compress _ _
  · have run := exec_final 0 s
    rwa [show (0 : Arg).toNat = 0 from rfl, messageLength_zero] at run

/-! ### Absorbing a string of bytes -/

/-- The hash state `x` taken through the full 64-byte blocks of `p`, in order; the bytes after them are left out. -/
def absorb (x : Vector Word 8) (p : List Byte) : Vector Word 8 :=
  (List.range (p.length / 64)).foldl (fun x k => compress x (words (p.drop (64 * k)))) x

theorem absorb_of_short (x : Vector Word 8) {p : List Byte} (hp : p.length < 64) : absorb x p = x := by
  rw [absorb, Nat.div_eq_of_lt hp]; rfl

theorem absorb_of_block (x : Vector Word 8) {p : List Byte} (hp : p.length = 64) : absorb x p = compress x (words p) := by
  rw [absorb, hp]; rfl

/-- Whole blocks are absorbed before what follows them. -/
theorem absorb_append (x : Vector Word 8) {p : List Byte} (q : List Byte) (hp : 64 ∣ p.length) :
    absorb x (p ++ q) = absorb (absorb x p) q := by
  obtain ⟨n, hn⟩ := hp
  have hpn : p.length / 64 = n := by omega
  have hpq : (p ++ q).length / 64 = n + q.length / 64 := by rw [List.length_append]; omega
  have first : (List.range n).foldl (fun x k => compress x (words ((p ++ q).drop (64 * k)))) x = absorb x p := by
    rw [absorb, hpn]
    refine List.foldl_ext _ _ _ fun y k hk => ?_
    have hkn := List.mem_range.1 hk
    rw [List.drop_append_of_le_length (by omega), words_append _ (by rw [List.length_drop]; omega)]
  rw [absorb, hpq, List.range_add, List.foldl_append, List.foldl_map, first, absorb.eq_def _ q]
  refine List.foldl_ext _ _ _ fun y k _ => ?_
  rw [Nat.mul_add, ← hn, List.drop_length_add_append]

/-- The bytes that FINAL compresses: its one or two scratch blocks (rules R164, R165). -/
def finalBytes (buf : Vector Word 16) (r : Nat) (l : Count) : List Byte :=
  firstBlock buf r l ++ if oneBlock r then [] else secondBlock l

/-- FINAL absorbs its scratch blocks. -/
theorem finalHash_eq_absorb (s : State) (r : Nat) :
    finalHash s r = absorb s.h (finalBytes s.buf r (messageLength s r)) := by
  have first := length_firstBlock s.buf r (messageLength s r)
  rw [finalBytes, absorb_append _ _ first.symm.dvd, absorb_of_block _ first, finalHash]
  split
  · rw [absorb_of_short _ (by decide)]
  · rw [absorb_of_block _ (length_secondBlock _)]

/-! ### The bytes beyond the tail -/

theorem scratch_congr {b b' : Vector Word 16} {r : Nat} (h : ∀ k < r, tailByte b k = tailByte b' k) (n : Nat) :
    scratch n b r = scratch n b' r := by
  refine List.map_congr_left fun k _ => ?_
  by_cases hk : k < r
  · rw [if_pos hk, if_pos hk, h k hk]
  · rw [if_neg hk, if_neg hk]

theorem finalBytes_congr {b b' : Vector Word 16} {r : Nat} (h : ∀ k < r, tailByte b k = tailByte b' k) (l : Count) :
    finalBytes b r l = finalBytes b' r l := by
  rw [finalBytes, firstBlock, scratch_congr h, scratch_congr h, finalBytes, firstBlock]

/-- The hash that FINAL leaves depends on H, LEN and the tail bytes alone (rule R161). -/
theorem finalHash_congr {s u : State} {r : Nat} (hh : u.h = s.h) (hlen : u.len = s.len)
    (htail : ∀ k < r, tailByte u.buf k = tailByte s.buf k) : finalHash u r = finalHash s r := by
  rw [finalHash_eq_absorb, finalHash_eq_absorb, messageLength, hh, hlen, finalBytes_congr htail, messageLength]

/-- Settles O37: both runs hash the same tail bytes, and neither writes BUF. -/
theorem finalIgnoresBytesBeyondTail : Obligations.FinalIgnoresBytesBeyondTail := by
  intro r s b hb
  have htail (k : Nat) (hk : k < r.toNat) : tailByte b k = tailByte s.buf k := by
    have byte := hb ⟨k, by omega⟩ hk
    rwa [← tailByte_eq_blockByte, ← tailByte_eq_blockByte] at byte
  have hash : finalHash { s with buf := b } r.toNat = finalHash s r.toNat := finalHash_congr rfl rfl htail
  refine ⟨_, exec_final r s, rfl, ?_⟩
  rw [exec_final, hash]
  rfl

/-! ### The padded message -/

/-- A scratch block is the tail, 0x80 and zeros (rule R162). -/
theorem scratch_eq_append {n r : Nat} (buf : Vector Word 16) (hr : r < n) :
    scratch n buf r = (List.range r).map (tailByte buf) ++ [0x80] ++ List.replicate (n - (r + 1)) 0 := by
  obtain ⟨z, rfl⟩ := Nat.exists_eq_add_of_le (Nat.succ_le_of_lt hr)
  have tail : (List.range r).map (fun k => if k < r then tailByte buf k else if k = r then 0x80 else 0) =
      (List.range r).map (tailByte buf) :=
    List.map_congr_left fun k hk => if_pos (List.mem_range.1 hk)
  have zeros : (List.range z).map (fun k => if r + 1 + k < r then tailByte buf (r + 1 + k) else
      if r + 1 + k = r then (0x80 : Byte) else 0) = List.replicate (List.range z).length 0 :=
    List.map_eq_replicate_iff.2 fun k _ => by rw [if_neg (by omega), if_neg (by omega)]
  rw [List.length_range] at zeros
  rw [scratch, List.range_add, List.map_append, List.map_map, List.range_succ, List.map_append, tail]
  simpa [Function.comp_def] using zeros

/-- FINAL pads its tail with the fewest zeros that let the length field end a block (rules R162 to R165). -/
theorem finalBytes_eq {r : Nat} (hr : r < 64) (buf : Vector Word 16) (l : Count) :
    finalBytes buf r l =
      (List.range r).map (tailByte buf) ++ [0x80] ++ List.replicate ((119 - r) % 64) 0 ++ lengthField l := by
  rw [finalBytes, firstBlock]
  by_cases h : r < 56
  · have zeros : (119 - r) % 64 = 56 - (r + 1) := by omega
    have one : oneBlock r = true := decide_eq_true h
    rw [if_pos one, if_pos one, List.append_nil, scratch_eq_append buf h, zeros]
  · have zeros : (119 - r) % 64 = 64 - (r + 1) + 56 := by omega
    have two : ¬ oneBlock r = true := fun one => h (of_decide_eq_true one)
    rw [if_neg two, if_neg two, scratch_eq_append buf hr, zeros, ← List.replicate_append_replicate, secondBlock]
    simp only [List.append_assoc]

/-- The eight bytes of 8·L depend on L modulo 2^64 alone (rules R163, R169). -/
theorem lengthBytes_eq_lengthField (n : Nat) : Spec.lengthBytes n = lengthField (BitVec.ofNat 64 n) := by
  have bits : bitLength (BitVec.ofNat 64 n) = BitVec.ofNat 64 (8 * n) := (BitVec.ofNat_mul 8 n).symm
  refine List.map_congr_left fun m _ => BitVec.eq_of_getLsbD_eq fun i hi => ?_
  have inField : 56 - 8 * m + i < 64 := by omega
  rw [byteOfCount, bits, BitVec.getLsbD_extractLsb', BitVec.getLsbD_ofNat, BitVec.getLsbD_ofNat,
    Nat.testBit_div_two_pow, Nat.add_comm i, decide_eq_true inField, Bool.true_and]

theorem dvd_length_take_fullBlocks (m : List Byte) : 64 ∣ (m.take (64 * (m.length / 64))).length := by
  rw [List.length_take_of_le (Nat.mul_div_le _ _)]
  exact Nat.dvd_mul_right _ _

theorem length_drop_fullBlocks (m : List Byte) : (m.drop (64 * (m.length / 64))).length = m.length % 64 := by
  rw [List.length_drop]; omega

/-- A padded message is its full blocks, then the bytes that FINAL compresses (rule R160). -/
theorem paddedMessage_eq (m : List Byte) :
    Spec.paddedMessage m = m.take (64 * (m.length / 64)) ++
      finalBytes (messageBlock m (m.length / 64)) (m.length % 64) (BitVec.ofNat 64 m.length) := by
  have hr : m.length % 64 < 64 := Nat.mod_lt _ (by decide)
  have hlen := length_drop_fullBlocks m
  have htail : (List.range (m.length % 64)).map (tailByte (messageBlock m (m.length / 64))) =
      m.drop (64 * (m.length / 64)) :=
    hlen ▸ map_tailByte_words (hlen ▸ hr.le)
  rw [finalBytes_eq hr, htail, ← lengthBytes_eq_lengthField, Spec.paddedMessage]
  simp only [← List.append_assoc, List.take_append_drop]

theorem blockFrom_eq_words (p : List Byte) (i : Nat) : Spec.blockFrom p i = words (p.drop i) := by
  have word (j : Nat) : Spec.wordFrom p i j = wordAt (p.drop i) j := by
    simp [Spec.wordFrom, wordAt, bigEndian32, List.getD_eq_getElem?_getD, Nat.add_assoc]
  simp only [Spec.blockFrom, words, word]

/-- The one-call hash absorbs the padded message. -/
theorem oneCallHash_eq_absorb (m : List Byte) : Spec.oneCallHash m = absorb Rom.iv (Spec.paddedMessage m) := by
  simp only [Spec.oneCallHash, blockFrom_eq_words, absorb]

theorem absorb_take_fullBlocks (x : Vector Word 8) (m : List Byte) :
    absorb x (m.take (64 * (m.length / 64))) = absorb x m := by
  have short : (m.drop (64 * (m.length / 64))).length < 64 :=
    length_drop_fullBlocks m ▸ Nat.mod_lt _ (by decide)
  have whole := absorb_append x (m.drop (64 * (m.length / 64))) (dvd_length_take_fullBlocks m)
  rw [absorb_of_short _ short, List.take_append_drop] at whole
  exact whole.symm

section
variable {m : List Byte} {s : State} (hlen : s.len = BitVec.ofNat 64 (64 * (m.length / 64)))
include hlen

/-- LEN after the full blocks, and the tail, make the length of the message modulo 2^64 (rule R163). -/
theorem messageLength_of_fullBlocks : messageLength s (m.length % 64) = BitVec.ofNat 64 m.length := by
  rw [messageLength, hlen, ← BitVec.ofNat_add, Nat.div_add_mod]

/-- FINAL after the full blocks leaves the one-call hash of the message (rules R160, R168). -/
theorem finalHash_eq_oneCallHash (hh : s.h = absorb Rom.iv m) (hbuf : s.buf = messageBlock m (m.length / 64)) :
    finalHash s (m.length % 64) = Spec.oneCallHash m := by
  rw [oneCallHash_eq_absorb, paddedMessage_eq, absorb_append _ _ (dvd_length_take_fullBlocks m), absorb_take_fullBlocks,
    finalHash_eq_absorb, messageLength_of_fullBlocks hlen, hh, hbuf]

end

/-! ### The host's sequence -/

theorem takes_init (s : State) : Takes [command .init] s { s with h := Rom.iv, len := 0, done := false } :=
  takes_command .init s _ (decode_encode_of_wf rfl) fun _ => rfl

theorem takes_block (s : State) :
    Takes [command .block] s { s with h := compress s.h s.buf, len := s.len + 64, done := false } :=
  takes_command .block s _ (decode_encode_of_wf rfl) fun _ => rfl

theorem takes_final (r : Arg) (s : State) :
    Takes [command (.final r)] s { s with h := finalHash s r.toNat, len := messageLength s r.toNat, done := true } :=
  takes_command (.final r) s _ (decode_encode_of_wf rfl) fun _ => rfl

/-- A read does not depend on what an earlier one answered. -/
theorem portRead_with_rdata (a : PortAddr) (v : Word) (s : State) : portRead a { s with rdata := v } = portRead a s := by
  unfold portRead readReg
  cases addressMap a <;> rfl

/-- Several reads leave the answer of the last one. -/
theorem takes_reads (as : List PortAddr) (a : PortAddr) (s : State) :
    Takes (as.map rd ++ [rd a]) s { s with rdata := portRead a s } := by
  induction as generalizing s with
  | nil => exact takes_rd a s
  | cons b as ih =>
    have run := takes_append (takes_rd b s) (ih { s with rdata := portRead b s })
    rwa [portRead_with_rdata] at run

/-- READDIGEST with BSWAP = 0 ends with H7 answered (30_encoding rule R88). -/
theorem takes_readDigest {s : State} (hs : s.bswap = false) : Takes readDigest s { s with rdata := s.h[7] } := by
  have run := takes_reads ((List.range 7).map fun i => BitVec.ofNat 7 (0x08 + i)) 0x0F s
  have last : portRead 0x0F s = s.h[7] := (digestBytesReadInOrder s 7).1 hs
  rwa [last] at run

/-- LOADBUF and BLOCK for the first `n` blocks of a message; BUF holds the last of them. -/
theorem takes_fullBlocks (m : List Byte) {s : State} (hs : s.bswap = false) (hdone : s.done = false) (n : Nat) :
    ∃ b, Takes ((List.range n).flatMap fun k => loadBuf (messageBlock m k) ++ [command .block]) s
      { s with
        h := (List.range n).foldl (fun x k => compress x (messageBlock m k)) s.h
        len := s.len + BitVec.ofNat 64 (64 * n)
        buf := b } := by
  induction n with
  | zero => exact ⟨s.buf, by simpa using takes_nil s⟩
  | succ n ih =>
    obtain ⟨b, ih⟩ := ih
    have len : s.len + BitVec.ofNat 64 (64 * n + 64) = s.len + BitVec.ofNat 64 (64 * n) + 64 :=
      (congrArg (s.len + ·) (BitVec.ofNat_add (64 * n) 64)).trans (BitVec.add_assoc ..).symm
    refine ⟨messageBlock m n, ?_⟩
    rw [List.range_succ, List.flatMap_append, List.flatMap_singleton, List.foldl_append, Nat.mul_succ, len, hdone]
    exact takes_append ih (takes_append (takes_loadBuf (messageBlock m n) _ hs) (takes_block _))

/-- The sequence up to its FINAL: H has absorbed the full blocks and BUF holds the tail (rule R160). -/
theorem takes_untilFinal (m : List Byte) {s : State} (hs : s.bswap = false) :
    Takes ([command .init] ++
        ((List.range (m.length / 64)).flatMap fun k => loadBuf (messageBlock m k) ++ [command .block]) ++
        loadBuf (messageBlock m (m.length / 64))) s
      { s with
        h := absorb Rom.iv m
        len := BitVec.ofNat 64 (64 * (m.length / 64))
        done := false
        buf := messageBlock m (m.length / 64) } := by
  obtain ⟨b, blocks⟩ :=
    takes_fullBlocks m (s := { s with h := Rom.iv, len := 0, done := false }) hs rfl (m.length / 64)
  have run := takes_append (takes_append (takes_init s) blocks) (takes_loadBuf (messageBlock m (m.length / 64)) _ hs)
  have len : (0 : Count) + BitVec.ofNat 64 (64 * (m.length / 64)) = _ := BitVec.zero_add _
  rwa [len] at run

/-- HASH with BSWAP = 0 leaves the one-call hash in H (rules R160, R168; 30_encoding rule R88). -/
theorem takes_hashMessage (m : List Byte) {s : State} (hs : s.bswap = false) :
    Takes (hashMessage m) s
      { s with
        h := Spec.oneCallHash m
        len := BitVec.ofNat 64 m.length
        done := true
        buf := messageBlock m (m.length / 64)
        rdata := (Spec.oneCallHash m)[7] } := by
  have tail : (BitVec.ofNat 6 (m.length % 64)).toNat = m.length % 64 := by rw [BitVec.toNat_ofNat, Nat.mod_mod]
  have run := takes_append (takes_untilFinal m hs) (takes_final (BitVec.ofNat 6 (m.length % 64)) _)
  rw [tail, finalHash_eq_oneCallHash rfl rfl rfl, messageLength_of_fullBlocks rfl] at run
  exact takes_append run (takes_readDigest hs)

/-- Settles O45: the run of HASH with nothing asked for after it. -/
theorem hashSequenceAgreesWithOneCall : Obligations.HashSequenceAgreesWithOneCall := by
  intro m s hs
  have run := takes_hashMessage m hs []
  rw [List.append_nil] at run
  exact ⟨_, run, rfl, rfl, rfl, rfl, BitVec.toNat_ofNat _ _, rfl, rfl⟩

end Sys2Proof.Machine
end

section
/-! PROOF. Every step completes (60_exceptions). The idea: an event never touches what the host asks for after it, so a
step shortens `pending` by the event it takes and by nothing else. -/

namespace Sys2Proof.Machine

/-- No port write touches what the host asks for next. -/
@[simp] theorem writtenState_pending (r : PortReg) (v : Word) (s : State) : (writtenState r v s).pending = s.pending := by
  cases r <;> simp [writtenState, apply_ite State.pending]

/-- An event leaves the host's later requests alone (20_memory rule R66). -/
theorem portEvent_pending {e : PortEvent} {s t : State} (h : portEvent e s = .next t) : t.pending = s.pending := by
  rcases portEvent_cases h with
    ⟨a, -, rfl⟩ | ⟨a, v, -, -, rfl⟩ | ⟨w, i, -, -, hs⟩ | ⟨w, r, -, -, rfl⟩ | ⟨x, -, rfl⟩
  · exact setRdata_pending s _
  · exact writtenState_pending _ v s
  · exact (congrArg State.pending hs.frame :)
  · exact raiseError_pending s _
  · exact resetMachine_pending s

/-- Settles O7: a step with nothing asked for stays, and any other is one port event, which completes. -/
theorem everyStepCompletes : Obligations.EveryStepCompletes := by
  intro s
  cases hp : s.pending with
  | nil => exact ⟨s, step_nil s hp, hp⟩
  | cons e rest =>
    obtain ⟨t, ht⟩ := portEvent_completes e { s with pending := rest }
    exact ⟨t, (step_cons s e rest hp).trans ht, portEvent_pending ht⟩

end Sys2Proof.Machine
end

section
/-! PROOF. Reset and hazards (70_reset_and_hazards). The idea: a step is the host's oldest event on the state without it,
and what a command makes of H, LEN and DONE depends on them and on BUF alone; INIT makes the first three the same
whatever an earlier message left. -/

namespace Sys2Proof.Machine

/-! ### Steps -/

/-- Settles O5: the event is a write of CMD, and the word decodes. -/
theorem stepRunsDecodedCommand : Obligations.StepRunsDecodedCommand := fun s _ _ _ hp hd =>
  (step_cons s _ _ hp).trans (portWrite_cmd_of_decode_ok _ hd)

/-- A read does not depend on what the host asks for after it (20_memory rule R66). -/
theorem portRead_with_pending (a : PortAddr) (rest : List PortEvent) (s : State) :
    portRead a { s with pending := rest } = portRead a s := by
  unfold portRead readReg
  cases addressMap a <;> rfl

/-- Settles O6, event by event. -/
theorem stepTakesOldestEvent : Obligations.StepTakesOldestEvent := by
  intro s rest a v
  refine ⟨fun hp => ?_, fun hp => step_cons s _ rest hp, step_nil s⟩
  rw [step_cons s _ rest hp, portEvent, portRead_with_pending, setRdata]

/-! ### Reset -/

/-- Settles O9: the reset state does not depend on the state before it or on the transaction in progress. -/
theorem resetEventRestoresEveryRegister : Obligations.ResetEventRestoresEveryRegister := fun s _ rest hp =>
  ⟨resetMachine { s with pending := rest }, step_cons s _ rest hp, resetMachine_pending _, rfl, rfl, rfl, rfl, rfl,
    resetMachine_h _, resetMachine_buf _, rfl, rfl, rfl, rfl⟩

/-! ### Residue of an earlier message -/

/-- Two states hold the same message so far: they agree on the registers that the digest comes from, and on DONE. -/
structure SameMessage (s u : State) : Prop where
  h : s.h = u.h
  len : s.len = u.len
  done : s.done = u.done
  buf : s.buf = u.buf

/-- The same command keeps two states at the same message: it makes H, LEN and DONE from these and BUF alone. -/
theorem CommandShape.sameMessage {i : Instr} {s u t v : State} (hs : CommandShape s i t) (hu : CommandShape u i v)
    (same : SameMessage s u) : SameMessage t v := by
  obtain ⟨hh, hlen, hdone, hbuf⟩ := same
  cases hs with
  | init => cases hu; exact ⟨rfl, rfl, rfl, hbuf⟩
  | compress => cases hu; exact ⟨congrArg₂ Machine.compress hh hbuf, hlen, rfl, hbuf⟩
  | block => cases hu; exact ⟨congrArg₂ Machine.compress hh hbuf, congrArg (· + 64) hlen, rfl, hbuf⟩
  | final r =>
    cases hu
    have hash : finalHash s r.toNat = finalHash u r.toNat := finalHash_congr hh hlen fun _ _ => by rw [hbuf]
    exact ⟨hash, congrArg (· + BitVec.ofNat 64 r.toNat) hlen, rfl, hbuf⟩
  -- A function command and an illegal shift write none of the four registers.
  | _ => cases hu <;> constructor <;> simpa

/-- INIT leaves two states with the same BUF at the same message (42_compression rule R145). -/
theorem sameMessage_init {s u : State} (hbuf : s.buf = u.buf) :
    SameMessage { s with h := Rom.iv, len := 0, done := false } { u with h := Rom.iv, len := 0, done := false } :=
  ⟨rfl, rfl, rfl, hbuf⟩

/-- Settles O40: INIT makes the message the same in both states, and the command after it keeps it the same. -/
theorem initLeavesNoResidue : Obligations.InitLeavesNoResidue := by
  intro i s u _ hbuf
  obtain ⟨s2, hs2, hs⟩ := exec_shape i { s with h := Rom.iv, len := 0, done := false }
  obtain ⟨u2, hu2, hu⟩ := exec_shape i { u with h := Rom.iv, len := 0, done := false }
  obtain ⟨hh, hlen, hdone, -⟩ := hs.sameMessage hu (sameMessage_init hbuf)
  exact ⟨_, _, s2, u2, exec_init s, exec_init u, hs2, hu2, hh, hlen, hdone⟩

end Sys2Proof.Machine
end
